-- ==== Sys2Proof/Word.lean ====
section
/-! DEFINITION. The word types of the command port: a command word is 64 bits presented as one whole value
(30_encoding.md R80, 20_memory.md R63). -/

namespace Sys2Proof

/-- A command word `CW[63:0]` (R80). -/
abbrev CommandWord := BitVec 64

/-- A byte of a test bench's stream of command words (R63); the core itself has no bytes. -/
abbrev Byte := BitVec 8

end Sys2Proof
end

