-- ==== Sys2Proof/Config.lean ====
section
/-! DEFINITION. What an implementation fixes: the fixed parameters of 00_scope.md R5, the open parameters of R6 as
fields of one record `Params`, the number format NUMERICS of R9, the constraints of R7 as named hypotheses, the straps
of RESET. The machine runs on the opaque constant `Config.params`: no proof can see a value of an open table. -/

namespace Sys2Proof

/-- The two chip variants: VARIANT 0 is AY, 1 is YM (R2). -/
inductive Variant where
  | AY
  | YM
  deriving DecidableEq, Repr, Inhabited

/-- The amplitude type of every amplitude-valued state element (R9). NUMERICS leaves the number format open; a rational
serves as the CODE of an amplitude, and under `Numerics.exact` the code is the amplitude itself (log entry 1). -/
abbrev Amp := ℚ

/-- What leaves on one side of the sample port (30_encoding.md R87): the spec fixes no width; a rational is its code. -/
abbrev Sample := ℚ

/-- The parameter NUMERICS (R9): the number format of amplitudes. No law is assumed of its operations. -/
structure Numerics where
  zero : Amp
  one : Amp
  ofRat : ℚ → Amp
  add : Amp → Amp → Amp
  sub : Amp → Amp → Amp
  mul : Amp → Amp → Amp
  divInt : Amp → Int → Amp
  isFinite : Amp → Bool
  enc : Amp → Sample
  deriving Inhabited

/-- The reference instantiation of NUMERICS (R9, D12): exact rational arithmetic, everything finite, `enc` the
identity (R87). -/
def Numerics.exact : Numerics where
  zero := 0
  one := 1
  ofRat := fun q => q
  add := fun x y => x + y
  sub := fun x y => x - y
  mul := fun x y => x * y
  divInt := fun x n => x / (n : ℚ)
  isFinite := fun _ => true
  enc := fun x => x

/-- One row of the envelope-shape table: the four flags of a shape (R6, 42_envelope_generator.md R135). -/
structure EnvFlags where
  cont : Bool
  att : Bool
  alt : Bool
  hold : Bool
  deriving DecidableEq, Repr, Inhabited

/-- The open parameters of R6, but for the straps (VARIANT, CLK_HZ, OUT_HZ), which RESET latches into the state. -/
structure Params where
  /-- NUMERICS. -/
  num : Numerics
  /-- DAC_TABLE[v][i], i = 0..31. -/
  dacTable : Variant → Fin 32 → Amp
  /-- FIR_COEF[k], k = 0..191. -/
  firCoef : Fin 192 → Amp
  /-- LFSR_WIDTH, a positive integer. -/
  lfsrWidth : ℕ+
  /-- LFSR_NEXT: one shift of the register with its feedback. -/
  lfsrNext : BitVec lfsrWidth → BitVec lfsrWidth
  /-- LFSR_OUT: the output bit of a register value. -/
  lfsrOut : BitVec lfsrWidth → Bool
  /-- NOISE_SEED: the reset value of the register. -/
  noiseSeed : BitVec lfsrWidth
  /-- ENV_FLAGS[shape], 16 entries. -/
  envFlags : BitVec 4 → EnvFlags
  /-- SQRT, used by the equal-power pan law. R6 gives it the type Amp in [0, 1] -> Amp in [0, 1]; NUMERICS has no order,
  so the range is the named hypothesis `Params.SqrtInUnit`, like the range of the DAC tables (log entry 2). -/
  sqrt : Amp → Amp
  deriving Inhabited

/-- The open parameters of the machine at hand: an uninterpreted constant (R6: "none may be given a value silently"). -/
opaque Config.params : Params

/-! ### Fixed parameters (R5) -/

/-- OVERSAMPLE: oversampled samples per output sample. -/
def Config.oversample : Nat := 8

/-- FIR_TAPS: taps of the decimation filter, and the depth of its ring. -/
def Config.firTaps : Nat := 192

/-- DC_LEN: entries of one DC delay line. -/
def Config.dcLen : Nat := 1024

/-- The default instantiation of ENV_FLAGS (42_envelope_generator.md R137, which marks it general knowledge): bit 3 of
the shape id is continue, bit 2 attack, bit 1 alternate, bit 0 hold. The machine does not use it; claims about a
specific shape take it as a hypothesis. -/
def Config.defaultEnvFlags (shape : BitVec 4) : EnvFlags where
  cont := shape.getLsbD 3
  att := shape.getLsbD 2
  alt := shape.getLsbD 1
  hold := shape.getLsbD 0

/-! ### The constraints of R7, by letter: hypotheses a claim may name, which the machine never assumes -/

/-- R7 (a): entry 0 of both DAC tables is zero. -/
def Params.DacZeroAtZero (P : Params) : Prop :=
  ∀ v, P.dacTable v 0 = P.num.zero

/-- R7 (b): the even entries of both DAC tables do not decrease (read as amplitudes: exact numerics). -/
def Params.DacEvenMonotone (P : Params) : Prop :=
  ∀ v, ∀ i : Fin 15, P.dacTable v ⟨2 * i.val, by omega⟩ ≤ P.dacTable v ⟨2 * i.val + 2, by omega⟩

/-- R7 (c): every DAC entry lies in [0, 1] (exact numerics). -/
def Params.DacInUnit (P : Params) : Prop :=
  ∀ v i, 0 ≤ P.dacTable v i ∧ P.dacTable v i ≤ 1

/-- R7 (d): the FIR table is symmetric. -/
def Params.FirSymmetric (P : Params) : Prop :=
  ∀ k : Fin 192, P.firCoef k = P.firCoef ⟨191 - k.val, by omega⟩

/-- R7 (e): the FIR table sums to 1 (exact numerics). -/
def Params.FirUnitGain (P : Params) : Prop :=
  ∑ k : Fin 192, P.firCoef k = 1

/-- R7 (f): no state the register reaches from the seed is a fixed point of LFSR_NEXT. -/
def Params.SeedMoves (P : Params) : Prop :=
  ∀ n : Nat, P.lfsrNext (P.lfsrNext^[n] P.noiseSeed) ≠ P.lfsrNext^[n] P.noiseSeed

/-- R7 (g): SQRT(0) = 0, SQRT(1) = 1, and SQRT(x) squared is x where exact rationals allow it, at the squares. -/
def Params.SqrtLaws (P : Params) : Prop :=
  P.sqrt 0 = 0 ∧ P.sqrt 1 = 1 ∧ ∀ y : ℚ, 0 ≤ y → y ≤ 1 → P.sqrt (y * y) * P.sqrt (y * y) = y * y

/-- R6, the range of SQRT (exact numerics): it takes [0, 1] into [0, 1], by which pan weights stay in [0, 1]
(90_conflicts.md C13). -/
def Params.SqrtInUnit (P : Params) : Prop :=
  ∀ x, 0 ≤ x → x ≤ 1 → 0 ≤ P.sqrt x ∧ P.sqrt x ≤ 1

/-- A parameter set with the exact reference numerics (00_scope.md R9). -/
def Params.withExact (P : Params) : Params := { P with num := Numerics.exact }

/-! ### Straps -/

/-- The strap inputs RESET samples (30_encoding.md R88): the two rates are 32-bit two's-complement integers in Hz, so
that the non-positive rates can be presented. -/
structure Straps where
  variant : Variant
  clkHz : BitVec 32
  outHz : BitVec 32
  deriving DecidableEq, Repr

/-- DESIGN CHOICE (log entry 4): the straps of `State.reset`, those of R250's own example `RESET AY, 1000000, 44100`. -/
def Config.straps : Straps := ⟨.AY, 1000000#32, 44100#32⟩

end Sys2Proof
end

