-- ==== Sys2Proof/Syntax.lean ====
section
/-! DEFINITION. The ten commands of the opcode map (30_encoding.md R83), one constructor per row of
spec/opcode_table.json, each with the fields its format carries (R81) read as R82 says. -/

namespace Sys2Proof

/-- The three tone channels: 0 = A, 1 = B, 2 = C (R80, 00_scope.md R5). -/
inductive Channel where
  | A
  | B
  | C
  deriving DecidableEq, Repr, Inhabited

/-- What the CH field names: a channel, or (`none`, CH = 3) no such channel (R80). -/
abbrev ChannelField := Option Channel

/-- The host commands. An `Int` operand is `s32(ARG)` (R82, INT) or, in `setPan`, the numerator of
`p_raw = s32(ARG) / 65536` (R82, PAN). -/
inductive Instr where
  /-- SET_TONE_PERIOD ch, n (40_tone_generator.md R111). -/
  | setTonePeriod (ch : ChannelField) (n : Int)
  /-- SET_PAN ch, p, LIN or EQP (43_mixer_dac.md R154); `raw` is `p_raw * 65536`. -/
  | setPan (ch : ChannelField) (equalPower : Bool) (raw : Int)
  /-- SET_VOLUME ch, n (43_mixer_dac.md R152). -/
  | setVolume (ch : ChannelField) (n : Int)
  /-- SET_MIXER ch, t, n, e (43_mixer_dac.md R153). -/
  | setMixer (ch : ChannelField) (toneEnabled noiseEnabled envelopeEnabled : Bool)
  /-- SET_NOISE_PERIOD n (41_noise_generator.md R121). -/
  | setNoisePeriod (n : Int)
  /-- SET_ENV_PERIOD n (42_envelope_generator.md R131). -/
  | setEnvPeriod (n : Int)
  /-- SET_ENV_SHAPE n (42_envelope_generator.md R132). -/
  | setEnvShape (n : Int)
  /-- ADVANCE (44_clock_stepping.md R173). -/
  | advance
  /-- REMOVE_DC (47_dc_filter.md R206). -/
  | removeDc
  /-- READ_SAMPLE (48_output.md R216). -/
  | readSample
  deriving DecidableEq, Repr

end Sys2Proof
end

