-- ==== Sys2Proof/WellFormed.lean ====
section
/-! DEFINITION. When a command is one some command word encodes: its integer operand fits the 32-bit two's-complement
ARG field (30_encoding.md R82). CH, F and MIX are of types that hold exactly the encodable values. -/

namespace Sys2Proof

/-- `n` is the value of some 32-bit two's-complement field: -2^31 .. 2^31 - 1 (R82). -/
def fitsArg (n : Int) : Bool :=
  decide (-2147483648 ≤ n) && decide (n ≤ 2147483647)

/-- The command's operands fit their fields. -/
def Instr.wellFormed : Instr → Bool
  | .setTonePeriod _ n => fitsArg n
  | .setPan _ _ raw => fitsArg raw
  | .setVolume _ n => fitsArg n
  | .setMixer _ _ _ _ => true
  | .setNoisePeriod n => fitsArg n
  | .setEnvPeriod n => fitsArg n
  | .setEnvShape n => fitsArg n
  | .advance => true
  | .removeDc => true
  | .readSample => true

end Sys2Proof
end

