-- ==== Sys2Proof/Decode.lean ====
section
/-! DEFINITION. The decoder, total on any 64 bits (30_encoding.md R85), rejecting by name (R84); the encoder written
from the same layout (R80, R81, R90); the opcode map's match and mask words (R83). -/

namespace Sys2Proof

/-! ### The fields of a command word (R80) -/

/-- OP = CW[63:60]. -/
def fieldOP (w : CommandWord) : BitVec 4 := w.extractLsb' 60 4

/-- CH = CW[59:58]. -/
def fieldCH (w : CommandWord) : BitVec 2 := w.extractLsb' 58 2

/-- RSV = CW[57:33]. -/
def fieldRSV (w : CommandWord) : BitVec 25 := w.extractLsb' 33 25

/-- F = CW[32]. -/
def fieldF (w : CommandWord) : BitVec 1 := w.extractLsb' 32 1

/-- ARG = CW[31:0]. -/
def fieldARG (w : CommandWord) : BitVec 32 := w.extractLsb' 0 32

/-- `s32(v)`: a 32-bit field read as a two's-complement integer (00_scope.md R8). -/
def s32 (v : BitVec 32) : Int := v.toInt

/-- What CH names: 0 = A, 1 = B, 2 = C, 3 = no such channel (R80). -/
def channelOf (ch : BitVec 2) : ChannelField :=
  match ch.toNat with
  | 0 => some .A
  | 1 => some .B
  | 2 => some .C
  | _ => none

/-! ### Decoding -/

/-- Why a word is an illegal command (R84), one name per clause of the rule. -/
inductive Illegal where
  /-- OP = 0x0 or OP = 0xB to 0xF. -/
  | reservedOpcode
  /-- A non-zero RSV bit. -/
  | reservedBits
  /-- F = 1 outside SET_PAN. -/
  | flagBit
  /-- CH not 0 in formats S and N. -/
  | channelBits
  /-- ARG not 0 in format N. -/
  | argumentBits
  /-- A non-zero bit among ARG[31:3] in SET_MIXER. -/
  | mixerBits
  deriving DecidableEq, Repr

/-- Format C: F must be 0 (R81). -/
def formatC (w : CommandWord) (i : Instr) : Except Illegal Instr :=
  if fieldF w = 0 then .ok i else .error .flagBit

/-- Format M: F and ARG[31:3] must be 0 (R81, R82). -/
def formatM (w : CommandWord) (i : Instr) : Except Illegal Instr :=
  if fieldF w = 0 then
    if (fieldARG w).extractLsb' 3 29 = 0 then .ok i else .error .mixerBits
  else .error .flagBit

/-- Format S: CH and F must be 0 (R81). -/
def formatS (w : CommandWord) (i : Instr) : Except Illegal Instr :=
  if fieldCH w = 0 then formatC w i else .error .channelBits

/-- Format N: CH, F and ARG must be 0 (R81). -/
def formatN (w : CommandWord) (i : Instr) : Except Illegal Instr :=
  if fieldARG w = 0 then formatS w i else .error .argumentBits

/-- The row OP selects, with the fields of its format (R82, R83). -/
def decodeRow (w : CommandWord) : Except Illegal Instr :=
  match (fieldOP w).toNat with
  | 1 => formatC w (.setTonePeriod (channelOf (fieldCH w)) (s32 (fieldARG w)))
  | 2 => .ok (.setPan (channelOf (fieldCH w)) (fieldF w == 1#1) (s32 (fieldARG w)))
  | 3 => formatC w (.setVolume (channelOf (fieldCH w)) (s32 (fieldARG w)))
  | 4 => formatM w (.setMixer (channelOf (fieldCH w))
      ((fieldARG w).getLsbD 0) ((fieldARG w).getLsbD 1) ((fieldARG w).getLsbD 2))
  | 5 => formatS w (.setNoisePeriod (s32 (fieldARG w)))
  | 6 => formatS w (.setEnvPeriod (s32 (fieldARG w)))
  | 7 => formatS w (.setEnvShape (s32 (fieldARG w)))
  | 8 => formatN w .advance
  | 9 => formatN w .removeDc
  | 10 => formatN w .readSample
  | _ => .error .reservedOpcode

/-- `Decode(CW)` (R85): the command of the word, or why it is illegal. -/
def decode (w : CommandWord) : Except Illegal Instr :=
  if fieldRSV w = 0 then decodeRow w else .error .reservedBits

/-! ### Encoding -/

/-- The CH field that names a channel (R80, R90). -/
def channelBits : ChannelField → BitVec 2
  | some .A => 0#2
  | some .B => 1#2
  | some .C => 2#2
  | none => 3#2

/-- The ARG field of an integer: 32-bit two's complement (R82, R90). -/
def argBits (n : Int) : BitVec 32 := BitVec.ofInt 32 n

/-- The ARG field of the mixer bits: t + 2n + 4e (R82, R90). -/
def mixBits (t n e : Bool) : BitVec 32 :=
  (0#29 ++ (BitVec.ofBool e ++ (BitVec.ofBool n ++ BitVec.ofBool t))).cast rfl

/-- A command word from its fields, RSV = 0 (R80). -/
def wordOf (op : BitVec 4) (ch : BitVec 2) (f : BitVec 1) (arg : BitVec 32) : CommandWord :=
  (op ++ (ch ++ (0#25 ++ (f ++ arg)))).cast rfl

/-- The word of a command (R83, R90). -/
def encode : Instr → CommandWord
  | .setTonePeriod ch n => wordOf 1#4 (channelBits ch) 0#1 (argBits n)
  | .setPan ch eqp raw => wordOf 2#4 (channelBits ch) (BitVec.ofBool eqp) (argBits raw)
  | .setVolume ch n => wordOf 3#4 (channelBits ch) 0#1 (argBits n)
  | .setMixer ch t n e => wordOf 4#4 (channelBits ch) 0#1 (mixBits t n e)
  | .setNoisePeriod n => wordOf 5#4 0#2 0#1 (argBits n)
  | .setEnvPeriod n => wordOf 6#4 0#2 0#1 (argBits n)
  | .setEnvShape n => wordOf 7#4 0#2 0#1 (argBits n)
  | .advance => wordOf 8#4 0#2 0#1 0#32
  | .removeDc => wordOf 9#4 0#2 0#1 0#32
  | .readSample => wordOf 10#4 0#2 0#1 0#32

/-! ### The opcode map's rows (R83) -/

/-- The row of the opcode map a command belongs to: its OP value. -/
def Instr.opcode : Instr → Nat
  | .setTonePeriod _ _ => 1
  | .setPan _ _ _ => 2
  | .setVolume _ _ => 3
  | .setMixer _ _ _ _ => 4
  | .setNoisePeriod _ => 5
  | .setEnvPeriod _ => 6
  | .setEnvShape _ => 7
  | .advance => 8
  | .removeDc => 9
  | .readSample => 10

/-- (OP, match, mask) of each row of R83: a word `w` selects the row iff `w & mask = match`. -/
def opcodeMap : List (Nat × CommandWord × CommandWord) :=
  [ (0x1, 0x1000000000000000#64, 0xF3FFFFFF00000000#64),
    (0x2, 0x2000000000000000#64, 0xF3FFFFFE00000000#64),
    (0x3, 0x3000000000000000#64, 0xF3FFFFFF00000000#64),
    (0x4, 0x4000000000000000#64, 0xF3FFFFFFFFFFFFF8#64),
    (0x5, 0x5000000000000000#64, 0xFFFFFFFF00000000#64),
    (0x6, 0x6000000000000000#64, 0xFFFFFFFF00000000#64),
    (0x7, 0x7000000000000000#64, 0xFFFFFFFF00000000#64),
    (0x8, 0x8000000000000000#64, 0xFFFFFFFFFFFFFFFF#64),
    (0x9, 0x9000000000000000#64, 0xFFFFFFFFFFFFFFFF#64),
    (0xA, 0xA000000000000000#64, 0xFFFFFFFFFFFFFFFF#64) ]

/-! ### Words as bytes, for a test bench (20_memory.md R63) -/

/-- A command word as a test bench stores it: eight bytes, least significant first (R63, D5). -/
def bytesOfWord (w : CommandWord) : List Byte :=
  (List.range 8).map fun k => w.extractLsb' (8 * k) 8

/-- The number a list of bytes spells, least significant byte first. -/
def littleEndian : List Byte → Nat
  | [] => 0
  | b :: bs => b.toNat + 256 * littleEndian bs

/-- The command word of eight bytes, and none of any other number of bytes: a word is always exactly 64 bits (R64). -/
def wordOfBytes (bs : List Byte) : Option CommandWord :=
  if bs.length = 8 then some (BitVec.ofNat 64 (littleEndian bs)) else none

/-- The whole command word of a table row's word `w` of `nbits` bits: every bit above `nbits` is 0. -/
def tableWord (nbits w : Nat) : CommandWord := BitVec.ofNat 64 (w % 2 ^ nbits)

/-- The instruction the decoder reads from an instruction whose bits, numbered as spec/opcode_table.json numbers them,
are `w`: laid out as a test bench stores it, read back, decoded. -/
def decodeTableWord (nbits w : Nat) : Option Instr :=
  match wordOfBytes (bytesOfWord (tableWord nbits w)) with
  | none => none
  | some cw =>
    match decode cw with
    | .ok i => some i
    | .error _ => none

end Sys2Proof
end

