-- ==== Sys2Proof/Machine/Engine.lean ====
section
/-! DEFINITION. The architectural state of one engine instance, exactly the elements of 10_state.md R20, as plain data. A
one-bit element is a Bool, 1 = true, but for `env_dir`, whose two values have names (log entry 15). -/

namespace Sys2Proof.Machine

/-- One value per tone channel. -/
structure Channels (α : Type) where
  a : α
  b : α
  c : α
  deriving DecidableEq, Repr

/-- The two stereo sides: L (index 0) and R (index 1) (00_scope.md R5). -/
inductive Side where
  | L
  | R
  deriving DecidableEq, Repr

/-- One value per stereo side. -/
structure Sides (α : Type) where
  left : α
  right : α
  deriving DecidableEq, Repr

/-- Four amplitudes, index 0 to 3: `iy[s][0..3]` or `ic[s][0..3]`. -/
structure Quad where
  x0 : Amp
  x1 : Amp
  x2 : Amp
  x3 : Amp
  deriving DecidableEq, Repr

/-- The configuration latch (R21): `cfg_ok`, `VARIANT`, `CLK_HZ`, `OUT_HZ`. -/
structure ConfigLatch where
  cfgOk : Bool
  variant : Variant
  clkHz : Nat
  outHz : Nat
  deriving DecidableEq, Repr

/-- The state of one tone channel (R22 to R27). -/
structure ToneChannel where
  /-- `tone_period[c]` (R22). -/
  period : BitVec 16
  /-- `tone_counter[c]` (R23). -/
  counter : BitVec 16
  /-- `tone_level[c]` (R24). -/
  level : Bool
  /-- `t_off[c]` (R25). -/
  tOff : Bool
  /-- `n_off[c]` (R25). -/
  nOff : Bool
  /-- `e_on[c]` (R25). -/
  eOn : Bool
  /-- `volume[c]` (R26). -/
  volume : BitVec 4
  /-- `pan_left[c]` (R27). -/
  panLeft : Amp
  /-- `pan_right[c]` (R27). -/
  panRight : Amp
  deriving DecidableEq, Repr

/-- The noise state (R28 to R31). -/
structure NoiseState where
  /-- `noise_period` (R28). -/
  period : BitVec 5
  /-- `noise_counter` (R29). -/
  counter : BitVec 6
  /-- `lfsr` (R30): LFSR_WIDTH bits, read as an unsigned number, because the width is a parameter (log entry 3). -/
  lfsr : Nat
  /-- `noise_bit` (R31). -/
  bit : Bool
  deriving DecidableEq, Repr

/-- `env_dir` (R36): 0 = ramp down, 1 = ramp up. -/
inductive EnvDir where
  | down
  | up
  deriving DecidableEq, Repr

/-- The envelope state (R32 to R36). -/
structure EnvState where
  /-- `env_period` (R32). -/
  period : BitVec 16
  /-- `env_counter` (R33). -/
  counter : BitVec 16
  /-- `env_value` (R34). -/
  value : BitVec 5
  /-- `env_shape` (R35). -/
  shape : BitVec 4
  /-- `env_dir` (R36). -/
  dir : EnvDir
  /-- `env_frozen` (R36). -/
  frozen : Bool
  deriving DecidableEq, Repr

/-- The interpolator state of one side (R38). -/
structure InterpState where
  /-- `iy[s][0..3]`: the last four raw samples, oldest first. -/
  iy : Quad
  /-- `ic[s][0..3]`: the four derived coefficients. -/
  ic : Quad
  deriving DecidableEq, Repr

/-- The FIR state of one side (R39). -/
structure FirState where
  /-- `fir_buf[s][0..383]`. -/
  buf : Vector Amp 384
  /-- `fir_widx[s]`, 0..191. -/
  widx : Fin 192
  deriving DecidableEq, Repr

/-- The DC-filter state of one side (R40). -/
structure DcState where
  /-- `dc_delay[s][0..1023]`. -/
  delay : Vector Amp 1024
  /-- `dc_sum[s]`. -/
  sum : Amp
  /-- `dc_widx[s]`, 0..1023. -/
  widx : Fin 1024
  deriving DecidableEq, Repr

/-- The output latch (R41). -/
structure OutputLatch where
  /-- `out_left`. -/
  left : Amp
  /-- `out_right`. -/
  right : Amp
  /-- `out_valid`. -/
  valid : Bool
  deriving DecidableEq, Repr

/-- The state of one engine instance (R20). -/
structure Engine where
  config : ConfigLatch
  tone : Channels ToneChannel
  noise : NoiseState
  env : EnvState
  /-- `phase` (R37): the numerator over MOD of the distance to the next oversampled sample. -/
  phase : Nat
  interp : Sides InterpState
  fir : Sides FirState
  dc : Sides DcState
  out : OutputLatch
  /-- `fatal` (R42). -/
  fatal : Bool
  deriving DecidableEq, Repr

end Sys2Proof.Machine
end

