-- ==== Sys2Proof/Machine/Reset.lean ====
section
/-! DEFINITION. RESET: what every state element becomes (70_reset_and_hazards.md R250 to R252, 10_state.md R47). -/

namespace Sys2Proof.Machine

/-- Both sampled rates are positive: the straps are valid (R251). -/
def strapsValid (st : Straps) : Bool :=
  decide (0 < st.clkHz.toInt) && decide (0 < st.outHz.toInt)

/-- The configuration latch RESET writes from the straps (R250, R251). -/
def resetConfig (st : Straps) : ConfigLatch :=
  if strapsValid st then
    { cfgOk := true, variant := st.variant, clkHz := st.clkHz.toInt.toNat, outHz := st.outHz.toInt.toNat }
  else
    { cfgOk := false, variant := st.variant, clkHz := 0, outHz := 0 }

/-- A tone channel after RESET (R22 to R27). -/
def resetTone (N : Numerics) : ToneChannel where
  period := 0#16
  counter := 0#16
  level := false
  tOff := false
  nOff := false
  eOn := false
  volume := 0#4
  panLeft := N.zero
  panRight := N.zero

/-- The noise state after RESET: zero, but for the register, which is the seed (R28 to R31). -/
def resetNoise (P : Params) : NoiseState where
  period := 0#5
  counter := 0#6
  lfsr := P.noiseSeed.toNat
  bit := false

/-- The envelope state after RESET (R32 to R36). -/
def resetEnv : EnvState where
  period := 0#16
  counter := 0#16
  value := 0#5
  shape := 0#4
  dir := .down
  frozen := false

/-- Four Amp zeros. -/
def zeroQuad (N : Numerics) : Quad := ⟨N.zero, N.zero, N.zero, N.zero⟩

/-- An interpolator after RESET (R38). -/
def resetInterp (N : Numerics) : InterpState := ⟨zeroQuad N, zeroQuad N⟩

/-- A FIR filter after RESET (R39). -/
def resetFir (N : Numerics) : FirState := ⟨Vector.replicate 384 N.zero, 0⟩

/-- A DC filter after RESET (R40). -/
def resetDc (N : Numerics) : DcState := ⟨Vector.replicate 1024 N.zero, N.zero, 0⟩

/-- The engine right after RESET with the straps given (R250). RESET reads no earlier state. -/
def resetEngine (P : Params) (st : Straps) : Engine where
  config := resetConfig st
  tone := ⟨resetTone P.num, resetTone P.num, resetTone P.num⟩
  noise := resetNoise P
  env := resetEnv
  phase := 0
  interp := ⟨resetInterp P.num, resetInterp P.num⟩
  fir := ⟨resetFir P.num, resetFir P.num⟩
  dc := ⟨resetDc P.num, resetDc P.num⟩
  out := ⟨P.num.zero, P.num.zero, false⟩
  fatal := false

end Sys2Proof.Machine
end

