-- ==== Sys2Proof/Machine/State.lean ====
section
/-! DEFINITION. The machine's state: the engine of 10_state.md R20 and, the model's own, the host's side of the command
port (what the host still has to present, and the last response). The reasons a step can stop; the state after reset. -/

namespace Sys2Proof.Machine

/-- What the host can do to the core between two commands: present a command word (30_encoding.md R80), or apply RESET
with its straps (70_reset_and_hazards.md R250). -/
inductive HostInput where
  | command (w : CommandWord)
  | reset (straps : Straps)
  deriving DecidableEq, Repr

/-- STATUS of a response (60_exceptions.md R221). -/
inductive Status where
  | ok
  | invalidConfig
  | outOfRange
  | illegalCommand
  | notValid
  | fatal
  deriving DecidableEq, Repr

/-- The response of a command (30_encoding.md R86): STATUS, and DATA when the command returns any. -/
structure Response where
  status : Status
  data : Option (Sample × Sample)
  deriving DecidableEq, Repr

/-- The machine's state. `inputs` and `response` are the model's own fields (log entries 5 and 6): the spec keeps the
host's command sequence outside the core (10_state.md R44). -/
structure State where
  /-- The engine's architectural state (10_state.md R20). -/
  engine : Engine
  /-- What the host presents, oldest first. -/
  inputs : List HostInput
  /-- The response of the last command; none before the first one and after a RESET, which produces none (R250). -/
  response : Option Response
  deriving DecidableEq, Repr

/-- Why the machine stops with a fault. No error of the spec is one: an error is a response (60_exceptions.md R220). -/
inductive Fault where
  /-- Raised by ADVANCE alone, when its loop has made more passes than the rates allow: only with OUT_HZ = 0, a state
  10_state.md R21's invariant excludes and no run from reset reaches. There the loop of 44_clock_stepping.md R173 need
  not end. Safe: the model stops where the spec describes no outcome (log entry 9). -/
  | advanceNeverEnds
  deriving DecidableEq, Repr

/-- Why the machine refuses an instruction. -/
inductive Refusal where
  /-- Raised by `exec` for an instruction without a meaning, by its mnemonic; every instruction of this model has one.
  Safe: the model stops where the hardware goes on. -/
  | notModelled (mnemonic : String)
  deriving DecidableEq, Repr

/-- The machine after RESET with the straps given and nothing presented yet. -/
def State.resetWith (st : Straps) : State where
  engine := resetEngine Config.params st
  inputs := []
  response := none

/-- The machine right after reset (R250), the straps being `Config.straps` (log entry 4). -/
def State.reset : State := State.resetWith Config.straps

end Sys2Proof.Machine
end

