-- ==== Sys2Proof/Machine/Ops.lean ====
section
/-! DEFINITION. The named operations every command is written with: reading and writing one channel's or one side's
element, the writes and reads of the internal arrays (20_memory.md R62), answering a command, and `raise`, the core's
only exception mechanism (60_exceptions.md R220). -/

namespace Sys2Proof.Machine

/-! ### Elements by channel and by side -/

/-- The element of channel `c`. -/
def Channels.get {α : Type} (x : Channels α) : Channel → α
  | .A => x.a
  | .B => x.b
  | .C => x.c

/-- Replace the element of channel `c`. -/
def Channels.set {α : Type} (x : Channels α) (c : Channel) (v : α) : Channels α :=
  match c with
  | .A => { x with a := v }
  | .B => { x with b := v }
  | .C => { x with c := v }

/-- Apply `f` to channels A, B, C. -/
def Channels.map {α β : Type} (f : α → β) (x : Channels α) : Channels β := ⟨f x.a, f x.b, f x.c⟩

/-- The element of side `s`. -/
def Sides.get {α : Type} (x : Sides α) : Side → α
  | .L => x.left
  | .R => x.right

/-- Replace channel `c`'s state. -/
def Engine.setTone (e : Engine) (c : Channel) (t : ToneChannel) : Engine := { e with tone := e.tone.set c t }

/-! ### The internal arrays -/

/-- FIR write (R62 (a), 46_fir_decimator.md R196): both copies of the ring, then the index. -/
def FirState.write (f : FirState) (v : Amp) : FirState where
  buf := (f.buf.set f.widx.val v (by have := f.widx.isLt; omega)).set (f.widx.val + 192) v
    (by have := f.widx.isLt; omega)
  widx := ⟨(f.widx.val + 1) % 192, Nat.mod_lt _ (by decide)⟩

/-- FIR read window (R62 (b), 46_fir_decimator.md R199): tap `k` reads `fir_buf[s][fir_widx[s] + k]`. -/
def FirState.tap (f : FirState) (k : Fin 192) : Amp :=
  f.buf[f.widx.val + k.val]'(by have := f.widx.isLt; have := k.isLt; omega)

/-- DC read (R62 (c)): the element that is read and then overwritten, the input of 1024 filtered samples ago. -/
def DcState.oldest (d : DcState) : Amp := d.delay[d.widx.val]'d.widx.isLt

/-- DC write (R62 (c)): the element at the index, then the index; the running sum beside it. -/
def DcState.slide (d : DcState) (x newSum : Amp) : DcState where
  delay := d.delay.set d.widx.val x d.widx.isLt
  sum := newSum
  widx := ⟨(d.widx.val + 1) % 1024, Nat.mod_lt _ (by decide)⟩

/-! ### Answering a command -/

/-- The outcome of every step of this machine. -/
abbrev Result := Host.Outcome State Fault Refusal

/-- End the command: the engine becomes `e`, and the response port carries `(st, data)` (30_encoding.md R86). -/
def answer (st : Status) (data : Option (Sample × Sample)) (e : Engine) (s : State) : Result :=
  .next { s with engine := e, response := some ⟨st, data⟩ }

/-- `respond(OK)`: the command completes with the engine `e`. -/
def accept (e : Engine) (s : State) : Result := answer .ok none e s

/-- `raise E` (60_exceptions.md R220, R228): the response is `(code(E), none)`, no state element changes, nothing is
saved and nothing is redirected. There is no return from it (R231): the host issues its next command. -/
def raise (err : Status) (s : State) : Result := answer err none s.engine s

/-- The 4-bit STATUS code (R221). -/
def Status.code : Status → BitVec 4
  | .ok => 0#4
  | .invalidConfig => 1#4
  | .outOfRange => 2#4
  | .illegalCommand => 3#4
  | .notValid => 4#4
  | .fatal => 5#4

end Sys2Proof.Machine
end

