-- ==== Sys2Proof/Machine/Operands.lean ====
section
/-! DEFINITION. The operand forms of 30_encoding.md R81 and R82 and the checks made on them, in the order of
60_exceptions.md R227: the channel first, then the range. -/

namespace Sys2Proof.Machine

/-- Channel check: CH = 3 names no channel and raises OutOfRange (60_exceptions.md R223). -/
def withChannel (ch : ChannelField) (s : State) (k : Channel → Result) : Result :=
  match ch with
  | none => raise .outOfRange s
  | some c => k c

/-- `n` lies in 0..`top`; comparisons are on mathematical integers (00_scope.md R8). -/
def inRange (top : Nat) (n : Int) : Bool := decide (0 ≤ n) && decide (n ≤ (top : Int))

/-- Range check of an INT operand: outside 0..`top` it raises OutOfRange (60_exceptions.md R223). -/
def withRange (top : Nat) (n : Int) (s : State) (k : Result) : Result :=
  if inRange top n then k else raise .outOfRange s

/-- PAN operand: `p_raw = s32(ARG) / 65536`, an exact rational (R82). -/
def panRaw (raw : Int) : ℚ := (raw : ℚ) / 65536

/-- The clamp of SET_PAN: to [0, 1], never an error (43_mixer_dac.md R154). -/
def clampUnit (p : ℚ) : ℚ := if p < 0 then 0 else if 1 < p then 1 else p

/-- The PAN operand as SET_PAN uses it. -/
def panOf (raw : Int) : ℚ := clampUnit (panRaw raw)

end Sys2Proof.Machine
end

