-- ==== Sys2Proof/Machine/Flags.lean ====
section
/-! DEFINITION. The one-bit computations: a channel's gate (43_mixer_dac.md R158), the check of a produced output pair and
the `fatal` flag (60_exceptions.md R226), the validity check of the output latch (60_exceptions.md R225). -/

namespace Sys2Proof.Machine

/-- The gate of a channel: `(tone_level | t_off) & (noise_bit | n_off)` (R158). -/
def gate (t : ToneChannel) (noiseBit : Bool) : Bool := (t.level || t.tOff) && (noiseBit || t.nOff)

/-- Both sides of an output pair are finite under NUMERICS. -/
def pairFinite (N : Numerics) (l r : Amp) : Bool := N.isFinite l && N.isFinite r

/-- Write an output pair into the latch and set `fatal` if a side is not finite (44_clock_stepping.md R173,
47_dc_filter.md R206). `fatal` is never cleared here (10_state.md R42). -/
def latchPair (N : Numerics) (l r : Amp) (e : Engine) : Engine :=
  { e with
    out := { e.out with left := l, right := r }
    fatal := e.fatal || !pairFinite N l r }

/-- The validity check of READ_SAMPLE and REMOVE_DC: NotValid while `out_valid = 0` (R225). -/
def withValid (s : State) (k : Result) : Result :=
  if s.engine.out.valid then k else raise .notValid s

end Sys2Proof.Machine
end

