-- ==== Sys2Proof/Machine/Envelope.lean ====
section
/-! DEFINITION. The envelope generator (42_envelope_generator.md): SET_ENV_PERIOD, SET_ENV_SHAPE and the internal EnvStep,
EnvAdvance, EnvBoundary. -/

namespace Sys2Proof.Machine

/-- SET_ENV_PERIOD n (R131): the counter and the state machine are not touched. -/
def execSetEnvPeriod (n : Int) (s : State) : Result :=
  withRange 65535 n s
    (accept { s.engine with env := { s.engine.env with period := BitVec.ofInt 16 n } } s)

/-- The envelope restarted at the initial segment of `shape` (R132): in the attack direction, from the far end. -/
def envRestart (P : Params) (shape : BitVec 4) (e : EnvState) : EnvState :=
  { e with
    shape := shape
    counter := 0#16
    frozen := false
    dir := if (P.envFlags shape).att then .up else .down
    value := if (P.envFlags shape).att then 0#5 else 31#5 }

/-- SET_ENV_SHAPE n (R132) under the parameters `P`. -/
def execSetEnvShapeWith (P : Params) (n : Int) (s : State) : Result :=
  withRange 15 n s
    (accept { s.engine with env := envRestart P (BitVec.ofInt 4 n) s.engine.env } s)

/-- SET_ENV_SHAPE n (R132). -/
def execSetEnvShape (n : Int) (s : State) : Result := execSetEnvShapeWith Config.params n s

/-- The opposite direction. -/
def EnvDir.flip : EnvDir → EnvDir
  | .down => .up
  | .up => .down

/-- EnvBoundary() (R135): what the active shape does at the end of a segment. -/
def envBoundary (P : Params) (e : EnvState) : EnvState :=
  if (P.envFlags e.shape).cont = false then
    { e with value := 0#5, frozen := true }
  else if (P.envFlags e.shape).hold then
    if (P.envFlags e.shape).alt then { e with frozen := true, value := 31#5 - e.value }
    else { e with frozen := true }
  else if (P.envFlags e.shape).alt then
    { e with dir := e.dir.flip }
  else
    { e with value := if e.dir = .up then 0#5 else 31#5 }

/-- EnvAdvance() (R134): one ramp step. -/
def envAdvance (P : Params) (e : EnvState) : EnvState :=
  if e.frozen then e
  else
    match e.dir with
    | .up => if e.value.toNat < 31 then { e with value := e.value + 1#5 } else envBoundary P e
    | .down => if 0 < e.value.toNat then { e with value := e.value - 1#5 } else envBoundary P e

/-- EnvStep() (R133): increment, compare `>=`, ramp at a rollover. -/
def envStep (P : Params) (e : EnvState) : EnvState :=
  if e.period.toNat ≤ e.counter.toNat + 1 then envAdvance P { e with counter := 0#16 }
  else { e with counter := BitVec.ofNat 16 (e.counter.toNat + 1) }

end Sys2Proof.Machine
end

