-- ==== Sys2Proof/Machine/Fir.lean ====
section
/-! DEFINITION. The 192-tap FIR decimation filter (46_fir_decimator.md): FirWrite and FirEval. -/

namespace Sys2Proof.Machine

/-- FirWrite(s, v) (R196). -/
def firWrite (f : FirState) (v : Amp) : FirState := f.write v

/-- `acc(k)` of R199: the first `k` products summed in ascending order from Amp zero. -/
def firAcc (P : Params) (f : FirState) : (k : Nat) → k ≤ 192 → Amp
  | 0, _ => P.num.zero
  | k + 1, h =>
    P.num.add (firAcc P f k (Nat.le_of_succ_le h)) (P.num.mul (P.firCoef ⟨k, h⟩) (f.tap ⟨k, h⟩))

/-- FirEval(s) (R199): `acc(192)`. -/
def firEval (P : Params) (f : FirState) : Amp := firAcc P f 192 (Nat.le_refl 192)

end Sys2Proof.Machine
end

