-- ==== Sys2Proof/Machine/Interpolator.lean ====
section
/-! DEFINITION. The 4-tap polynomial interpolator (45_interpolator.md): InterpPush and InterpEval. -/

namespace Sys2Proof.Machine

/-- The four coefficients of the cubic through the samples at -1, 0, 1, 2 (R186), in the written order of operations. -/
def interpCoeffs (N : Numerics) (y : Quad) : Quad where
  x0 := y.x1
  x1 := N.sub (N.sub (N.sub y.x2 (N.divInt y.x0 3)) (N.divInt y.x1 2)) (N.divInt y.x3 6)
  x2 := N.sub (N.divInt (N.add y.x0 y.x2) 2) y.x1
  x3 := N.add (N.divInt (N.sub y.x3 y.x0) 6) (N.divInt (N.sub y.x1 y.x2) 2)

/-- The shift register of raw samples (20_memory.md R62 (d)). -/
def Quad.shiftIn (y : Quad) (x : Amp) : Quad := ⟨y.x1, y.x2, y.x3, x⟩

/-- InterpPush(s, x) (R186): shift the sample in and recompute the coefficients. -/
def interpPush (N : Numerics) (i : InterpState) (x : Amp) : InterpState where
  iy := i.iy.shiftIn x
  ic := interpCoeffs N (i.iy.shiftIn x)

/-- InterpEval(s, t) (R187): Horner's form. -/
def interpEval (N : Numerics) (i : InterpState) (t : Amp) : Amp :=
  N.add (N.mul (N.add (N.mul (N.add (N.mul i.ic.x3 t) i.ic.x2) t) i.ic.x1) t) i.ic.x0

end Sys2Proof.Machine
end

