-- ==== Sys2Proof/Machine/Mixer.lean ====
section
/-! DEFINITION. The mixer / DAC stage and panning (43_mixer_dac.md): SET_VOLUME, SET_MIXER, SET_PAN and the internal Mix. -/

namespace Sys2Proof.Machine

/-- SET_VOLUME ch, n (R152). -/
def execSetVolume (ch : ChannelField) (n : Int) (s : State) : Result :=
  withChannel ch s fun c =>
    withRange 15 n s
      (accept (s.engine.setTone c { s.engine.tone.get c with volume := BitVec.ofInt 4 n }) s)

/-- SET_MIXER ch, t, n, e (R153): the state keeps tone-OFF and noise-OFF. -/
def execSetMixer (ch : ChannelField) (toneEnabled noiseEnabled envelopeEnabled : Bool) (s : State) : Result :=
  withChannel ch s fun c =>
    accept (s.engine.setTone c
      { s.engine.tone.get c with tOff := !toneEnabled, nOff := !noiseEnabled, eOn := envelopeEnabled }) s

/-- The two pan weights of a clamped pan value (R154): (1 - p, p), through SQRT for equal power. The literal 1 and `p` are
embedded by `ofRat` before the subtraction (00_scope.md R9, log entry 11). -/
def panWeights (P : Params) (equalPower : Bool) (p : ℚ) : Amp × Amp :=
  if equalPower then
    (P.sqrt (P.num.sub (P.num.ofRat 1) (P.num.ofRat p)), P.sqrt (P.num.ofRat p))
  else
    (P.num.sub (P.num.ofRat 1) (P.num.ofRat p), P.num.ofRat p)

/-- SET_PAN ch, p, LIN or EQP (R154) under the parameters `P`. -/
def execSetPanWith (P : Params) (ch : ChannelField) (equalPower : Bool) (raw : Int) (s : State) : Result :=
  withChannel ch s fun c =>
    accept (s.engine.setTone c
      { s.engine.tone.get c with
        panLeft := (panWeights P equalPower (panOf raw)).1
        panRight := (panWeights P equalPower (panOf raw)).2 }) s

/-- SET_PAN ch, p, LIN or EQP (R154). -/
def execSetPan (ch : ChannelField) (equalPower : Bool) (raw : Int) (s : State) : Result :=
  execSetPanWith Config.params ch equalPower raw s

/-- `level[c]` (R159): the envelope value, or twice the static volume. -/
def dacLevel (t : ToneChannel) (envValue : BitVec 5) : Fin 32 :=
  if t.eOn then envValue.toFin
  else ⟨2 * t.volume.toNat, by have := t.volume.isLt; omega⟩

/-- `idx[c]` (R159): the level while the gate is open, else 0. -/
def dacIndex (t : ToneChannel) (noiseBit : Bool) (envValue : BitVec 5) : Fin 32 :=
  if gate t noiseBit then dacLevel t envValue else 0

/-- `amp[c]` (R160). -/
def channelAmp (P : Params) (v : Variant) (noiseBit : Bool) (envValue : BitVec 5) (t : ToneChannel) : Amp :=
  P.dacTable v (dacIndex t noiseBit envValue)

/-- One side's sum over channels A, B, C in this order, from Amp zero (R161). -/
def mixSide (N : Numerics) (amp weight : Channels Amp) : Amp :=
  N.add (N.add (N.add N.zero (N.mul amp.a weight.a)) (N.mul amp.b weight.b)) (N.mul amp.c weight.c)

/-- Mix() (R161): the raw stereo sample of the generators as they stand. Writes no state. -/
def mix (P : Params) (v : Variant) (tone : Channels ToneChannel) (noiseBit : Bool) (envValue : BitVec 5) :
    Sides Amp where
  left := mixSide P.num (tone.map (channelAmp P v noiseBit envValue)) (tone.map ToneChannel.panLeft)
  right := mixSide P.num (tone.map (channelAmp P v noiseBit envValue)) (tone.map ToneChannel.panRight)

end Sys2Proof.Machine
end

