-- ==== Sys2Proof/Machine/Noise.lean ====
section
/-! DEFINITION. The noise generator (41_noise_generator.md): SET_NOISE_PERIOD and the internal NoiseStep. -/

namespace Sys2Proof.Machine

/-- SET_NOISE_PERIOD n (R121): counter, register and bit are not touched. -/
def execSetNoisePeriod (n : Int) (s : State) : Result :=
  withRange 31 n s
    (accept { s.engine with noise := { s.engine.noise with period := BitVec.ofInt 5 n } } s)

/-- The register's bits (R123), from the unsigned number the state holds. -/
def lfsrBits (P : Params) (n : NoiseState) : BitVec P.lfsrWidth := BitVec.ofNat P.lfsrWidth n.lfsr

/-- One shift: the register steps by LFSR_NEXT and the bit is sampled from the register just written (R122). -/
def noiseShift (P : Params) (n : NoiseState) : NoiseState :=
  { n with
    counter := 0#6
    lfsr := (P.lfsrNext (lfsrBits P n)).toNat
    bit := P.lfsrOut (P.lfsrNext (lfsrBits P n)) }

/-- NoiseStep() (R122): the divider counts to twice the period. -/
def noiseStep (P : Params) (n : NoiseState) : NoiseState :=
  if 2 * n.period.toNat ≤ n.counter.toNat + 1 then noiseShift P n
  else { n with counter := BitVec.ofNat 6 (n.counter.toNat + 1) }

end Sys2Proof.Machine
end

