-- ==== Sys2Proof/Machine/Tone.lean ====
section
/-! DEFINITION. The tone generator (40_tone_generator.md): SET_TONE_PERIOD and the internal ToneStep. -/

namespace Sys2Proof.Machine

/-- SET_TONE_PERIOD ch, n (R111): the counter and the level are not touched. -/
def execSetTonePeriod (ch : ChannelField) (n : Int) (s : State) : Result :=
  withChannel ch s fun c =>
    withRange 65535 n s
      (accept (s.engine.setTone c { s.engine.tone.get c with period := BitVec.ofInt 16 n }) s)

/-- ToneStep(c) (R112): increment, then compare `>=`; the level toggles at a rollover. -/
def toneStep (t : ToneChannel) : ToneChannel :=
  if t.period.toNat ≤ t.counter.toNat + 1 then
    { t with counter := 0#16, level := !t.level }
  else
    { t with counter := BitVec.ofNat 16 (t.counter.toNat + 1) }

end Sys2Proof.Machine
end

