-- ==== Sys2Proof/Machine/ClockStepping.lean ====
section
/-! DEFINITION. Internal clock, oversampling and ADVANCE (44_clock_stepping.md): NativeTick, the emission of an oversampled
sample, the loop of R173. -/

namespace Sys2Proof.Machine

/-- `INC = 8 * OUT_HZ` (R171). -/
def ConfigLatch.inc (c : ConfigLatch) : Nat := 8 * c.outHz

/-- `MOD = CLK_HZ` (R171). -/
def ConfigLatch.mod (c : ConfigLatch) : Nat := c.clkHz

/-- The raw stereo sample of a tick whose generators have stepped: Mix() of their new values (R172). -/
def rawSample (P : Params) (e : Engine) : Sides Amp :=
  mix P e.config.variant e.tone e.noise.bit e.env.value

/-- The five generator steps of a native tick (R172). -/
def stepGenerators (P : Params) (e : Engine) : Engine :=
  { e with tone := e.tone.map toneStep, noise := noiseStep P e.noise, env := envStep P e.env }

/-- Push a raw stereo sample into both interpolators (R172). -/
def pushRaw (P : Params) (raw : Sides Amp) (e : Engine) : Engine :=
  { e with
    interp := ⟨interpPush P.num e.interp.left raw.left, interpPush P.num e.interp.right raw.right⟩ }

/-- NativeTick() (R172): the generators step, the mixer reads their new values, both interpolators take the sample. -/
def nativeTick (P : Params) (e : Engine) : Engine :=
  pushRaw P (rawSample P (stepGenerators P e)) (stepGenerators P e)

/-- The loop's tick branch (R173): a native tick, then `phase <- phase + INC`. -/
def loopTick (P : Params) (e : Engine) : Engine :=
  { nativeTick P e with phase := e.phase + e.config.inc }

/-- `t = (INC - phase) / INC`, an exact rational, of the phase after the subtraction (R173). -/
def emitOffset (c : ConfigLatch) (phase : Nat) : ℚ := ((c.inc : ℚ) - (phase : ℚ)) / (c.inc : ℚ)

/-- The loop's emission branch (R173): `phase <- phase - MOD`, evaluate both interpolators at `t`, write both filters. -/
def loopEmit (P : Params) (e : Engine) : Engine :=
  let phase := e.phase - e.config.mod
  let t := P.num.ofRat (emitOffset e.config phase)
  { e with
    phase := phase
    fir := ⟨firWrite e.fir.left (interpEval P.num e.interp.left t),
            firWrite e.fir.right (interpEval P.num e.interp.right t)⟩ }

/-- The loop of R173, `while emitted < 8`, for at most `fuel` tests of its condition; none when they are used up. -/
def advanceLoop (P : Params) : (fuel emitted : Nat) → Engine → Option Engine
  | 0, _, _ => none
  | fuel + 1, emitted, e =>
    if emitted < Config.oversample then
      if e.config.mod ≤ e.phase then advanceLoop P fuel (emitted + 1) (loopEmit P e)
      else advanceLoop P fuel emitted (loopTick P e)
    else some e

/-- Tests of the loop condition one ADVANCE can need while INC > 0: 8 emissions, at most `8 * MOD / INC + 1` ticks, and
the last test. -/
def advanceFuel (c : ConfigLatch) : Nat := 8 * c.mod / c.inc + 10

/-- After the eighth emission (R173): both FIR results into the output latch, `out_valid <- 1`, the finiteness check. -/
def latchFir (P : Params) (e : Engine) : Engine :=
  let e' := latchPair P.num (firEval P e.fir.left) (firEval P e.fir.right) e
  { e' with out := { e'.out with valid := true } }

/-- ADVANCE (R173) under the parameters `P`. -/
def execAdvanceWith (P : Params) (s : State) : Result :=
  match advanceLoop P (advanceFuel s.engine.config) 0 s.engine with
  | some e => accept (latchFir P e) s
  | none => .fault .advanceNeverEnds

/-- ADVANCE (R173). -/
def execAdvance (s : State) : Result := execAdvanceWith Config.params s

end Sys2Proof.Machine
end

