-- ==== Sys2Proof/Machine/DcFilter.lean ====
section
/-! DEFINITION. The DC-blocking filter and REMOVE_DC (47_dc_filter.md). -/

namespace Sys2Proof.Machine

/-- `sum'` of R206: the running sum with the newest input in and the oldest out. -/
def dcNewSum (N : Numerics) (d : DcState) (x : Amp) : Amp := N.add d.sum (N.sub x d.oldest)

/-- The filter's state after the input `x` (R206): the delay line keeps the unfiltered input. -/
def dcPush (N : Numerics) (d : DcState) (x : Amp) : DcState := d.slide x (dcNewSum N d x)

/-- The filter's output for the input `x` (R206): `x - sum' / 1024`. -/
def dcOutput (N : Numerics) (d : DcState) (x : Amp) : Amp := N.sub x (N.divInt (dcNewSum N d x) 1024)

/-- Both sides of the output latch through their filters, and the finiteness check (R206). -/
def filterOutput (N : Numerics) (e : Engine) : Engine :=
  latchPair N (dcOutput N e.dc.left e.out.left) (dcOutput N e.dc.right e.out.right)
    { e with dc := ⟨dcPush N e.dc.left e.out.left, dcPush N e.dc.right e.out.right⟩ }

/-- REMOVE_DC (R206) under the parameters `P`. -/
def execRemoveDcWith (P : Params) (s : State) : Result :=
  withValid s (accept (filterOutput P.num s.engine) s)

/-- REMOVE_DC (R206). -/
def execRemoveDc (s : State) : Result := execRemoveDcWith Config.params s

end Sys2Proof.Machine
end

