-- ==== Sys2Proof/Machine/Output.lean ====
section
/-! DEFINITION. READ_SAMPLE (48_output.md). -/

namespace Sys2Proof.Machine

/-- The output pair on the sample port (30_encoding.md R86, R87). -/
def samplePair (N : Numerics) (o : OutputLatch) : Sample × Sample := (N.enc o.left, N.enc o.right)

/-- READ_SAMPLE (R216) under the parameters `P`: changes no state of the engine. -/
def execReadSampleWith (P : Params) (s : State) : Result :=
  withValid s (answer .ok (some (samplePair P.num s.engine.out)) s.engine s)

/-- READ_SAMPLE (R216). -/
def execReadSample (s : State) : Result := execReadSampleWith Config.params s

end Sys2Proof.Machine
end

