-- ==== Sys2Proof/Machine/Dispatch.lean ====
section
/-! DEFINITION. The rule of each command (60_exceptions.md R227, step 4): one arm per row of the opcode map. -/

namespace Sys2Proof.Machine

def exec (i : Instr) (s : State) : Host.Outcome State Fault Refusal :=
  match i with
  | .setTonePeriod ch n => Sys2Proof.Machine.execSetTonePeriod ch n s
  | .setPan ch eqp raw => Sys2Proof.Machine.execSetPan ch eqp raw s
  | .setVolume ch n => Sys2Proof.Machine.execSetVolume ch n s
  | .setMixer ch t n e => Sys2Proof.Machine.execSetMixer ch t n e s
  | .setNoisePeriod n => Sys2Proof.Machine.execSetNoisePeriod n s
  | .setEnvPeriod n => Sys2Proof.Machine.execSetEnvPeriod n s
  | .setEnvShape n => Sys2Proof.Machine.execSetEnvShape n s
  | .advance => Sys2Proof.Machine.execAdvance s
  | .removeDc => Sys2Proof.Machine.execRemoveDc s
  | .readSample => Sys2Proof.Machine.execReadSample s

end Sys2Proof.Machine
end

