-- ==== Sys2Proof/Machine/Execute.lean ====
section
/-! DEFINITION. Admission and execution of one command word (60_exceptions.md R227), RESET as an input
(70_reset_and_hazards.md R250), and where the next input comes from. -/

namespace Sys2Proof.Machine

/-- Steps 1 and 2 of admission (R227): the error every command gets in this state, whatever its word. -/
def admissionError (e : Engine) : Option Status :=
  if e.config.cfgOk then
    if e.fatal then some .fatal else none
  else some .invalidConfig

/-- `Execute(CW)` (R227): admission, decoding, the command's rule. -/
def executeWord (w : CommandWord) (s : State) : Result :=
  match admissionError s.engine with
  | some err => raise err s
  | none =>
    match decode w with
    | .error _ => raise .illegalCommand s
    | .ok i => exec i s

/-- RESET (R250): the engine's state is built anew from the straps, and there is no response. What the host still has
to present is the host's and stays (log entry 8). -/
def applyReset (st : Straps) (s : State) : State :=
  { s with engine := resetEngine Config.params st, response := none }

/-- The host's next input, and the state with that input taken off the list. -/
def takeInput (s : State) : Option (HostInput × State) :=
  match s.inputs with
  | [] => none
  | i :: rest => some (i, { s with inputs := rest })

/-- Present a command word as the very next input. -/
def presentWord (w : CommandWord) (s : State) : State := { s with inputs := .command w :: s.inputs }

end Sys2Proof.Machine
end

