-- ==== Sys2Proof/Machine/Step.lean ====
section
/-! DEFINITION. One step: the host's next input is processed to completion, one atomic transition (00_scope.md R11); with no
input nothing happens (log entry 7). -/

namespace Sys2Proof.Machine

/-- One step of the machine. -/
def step (s : State) : Host.Outcome State Fault Refusal :=
  match takeInput s with
  | none => .next s
  | some (.reset st, s') => .next (applyReset st s')
  | some (.command w, s') => executeWord w s'

/-- `s` with the table row's word presented as the next command, so that the next step runs exactly it (log entry 5). -/
def State.withFetchWord (s : State) (nbits w : Nat) : State := presentWord (tableWord nbits w) s

end Sys2Proof.Machine
end

