-- ==== Sys2Proof/Safety.lean ====
section
/-! DEFINITION. The terms claims are stated in: the invariants of 10_state.md R46, what a command leaves unchanged, the
complete list of out-of-range operands (60_exceptions.md R223), runs of commands. -/

namespace Sys2Proof.Machine

/-! ### The invariants of 10_state.md R46 -/

/-- R21: with a valid configuration both rates are positive; without one both read as 0 (70_reset_and_hazards.md R251). -/
def ConfigLatch.Ok (c : ConfigLatch) : Prop :=
  if c.cfgOk then 0 < c.clkHz ∧ 0 < c.outHz else c.clkHz = 0 ∧ c.outHz = 0

/-- R46 (f): the two halves of the FIR buffer mirror each other. -/
def FirState.Mirrored (f : FirState) : Prop :=
  ∀ i : Fin 192, f.buf[i.val]'(by omega) = f.buf[i.val + 192]'(by omega)

/-- R46 (e): the coefficients are the coefficient function of the samples. -/
def InterpState.Derived (N : Numerics) (i : InterpState) : Prop := i.ic = interpCoeffs N i.iy

/-- R46 (g), exact numerics: the running sum is the sum of the delay line. -/
def DcState.SumIsTotal (d : DcState) : Prop := d.sum = d.delay.toList.sum

/-- The invariants of R46 that hold under every NUMERICS, with those of R21, R30 and R42 beside them. -/
structure Engine.Inv (P : Params) (e : Engine) : Prop where
  /-- R21. -/
  config : e.config.Ok
  /-- R46 (a), the tone counters. -/
  toneCounter : ∀ c, (e.tone.get c).counter.toNat ≤ 65534
  /-- R46 (a), the envelope counter. -/
  envCounter : e.env.counter.toNat ≤ 65534
  /-- R46 (b). -/
  noiseCounter : e.noise.counter.toNat ≤ 61
  /-- R30: the register keeps to its width. -/
  lfsr : e.noise.lfsr < 2 ^ (P.lfsrWidth : Nat)
  /-- R46 (d): `phase < INC` between commands. -/
  phase : e.config.cfgOk = true → e.phase < e.config.inc
  /-- R46 (f). -/
  mirroredLeft : e.fir.left.Mirrored
  /-- R46 (f). -/
  mirroredRight : e.fir.right.Mirrored
  /-- R46 (f). -/
  firIndexEqual : e.fir.left.widx = e.fir.right.widx
  /-- R46 (h). -/
  firIndexMod : e.fir.left.widx.val % 8 = 0
  /-- R46 (g). -/
  dcIndexEqual : e.dc.left.widx = e.dc.right.widx
  /-- R42: a pair the host can still read is finite. -/
  finite : e.fatal = false → e.out.valid = true → pairFinite P.num e.out.left e.out.right = true
  /-- R225: without a valid configuration nothing was ever produced. -/
  noOutput : e.config.cfgOk = false → e.out.valid = false

/-- The invariant of the machine. -/
def State.Inv (s : State) : Prop := s.engine.Inv Config.params

/-- R46 (e) on both sides. -/
def Engine.InterpDerived (P : Params) (e : Engine) : Prop :=
  e.interp.left.Derived P.num ∧ e.interp.right.Derived P.num

/-- R46 (g) on both sides, for the exact reference numerics. -/
def Engine.DcSumsTotal (e : Engine) : Prop := e.dc.left.SumIsTotal ∧ e.dc.right.SumIsTotal

/-- R45, the legal values of the pan weights, for the exact reference numerics: all six lie in [0, 1]. -/
def PansInUnit (tone : Channels ToneChannel) : Prop :=
  ∀ c, 0 ≤ (tone.get c).panLeft ∧ (tone.get c).panLeft ≤ 1 ∧ 0 ≤ (tone.get c).panRight ∧ (tone.get c).panRight ≤ 1

/-! ### What a command leaves unchanged -/

/-- Nothing but channel `c`'s tone-channel state, and the response, differs between `s` and `t`. -/
def OnlyToneChannel (c : Channel) (s t : State) : Prop :=
  (∀ c', c' ≠ c → t.engine.tone.get c' = s.engine.tone.get c') ∧
  { t.engine with tone := s.engine.tone } = s.engine ∧
  t.inputs = s.inputs

/-- Nothing but the noise state, and the response, differs between `s` and `t`. -/
def OnlyNoise (s t : State) : Prop :=
  { t.engine with noise := s.engine.noise } = s.engine ∧ t.inputs = s.inputs

/-- Nothing but the envelope state, and the response, differs between `s` and `t`. -/
def OnlyEnv (s t : State) : Prop :=
  { t.engine with env := s.engine.env } = s.engine ∧ t.inputs = s.inputs

/-- The response is `(OK, no data)`. -/
def AnsweredOk (t : State) : Prop := t.response = some ⟨.ok, none⟩

/-- `s` with the response `(err, no data)` and nothing else changed: a rejected command (60_exceptions.md R220). -/
def State.rejectedWith (s : State) (err : Status) : State := { s with response := some ⟨err, none⟩ }

/-! ### Operands -/

/-- The complete list of conditions that raise OutOfRange (60_exceptions.md R223). -/
def OutOfRangeOperand : Instr → Prop
  | .setTonePeriod ch n => ch = none ∨ n < 0 ∨ 65535 < n
  | .setPan ch _ _ => ch = none
  | .setVolume ch n => ch = none ∨ n < 0 ∨ 15 < n
  | .setMixer ch _ _ _ => ch = none
  | .setNoisePeriod n => n < 0 ∨ 31 < n
  | .setEnvPeriod n => n < 0 ∨ 65535 < n
  | .setEnvShape n => n < 0 ∨ 15 < n
  | .advance => False
  | .removeDc => False
  | .readSample => False

/-- Two commands that write the same configuration register (or restart the same state machine), whatever they
write: "of two writes to the same register only the last has any effect" (70_reset_and_hazards.md R256). -/
def SameRegister : Instr → Instr → Prop
  | .setTonePeriod a _, .setTonePeriod b _ => a = b
  | .setPan a _ _, .setPan b _ _ => a = b
  | .setVolume a _, .setVolume b _ => a = b
  | .setMixer a _ _ _, .setMixer b _ _ _ => a = b
  | .setNoisePeriod _, .setNoisePeriod _ => True
  | .setEnvPeriod _, .setEnvPeriod _ => True
  | .setEnvShape _, .setEnvShape _ => True
  | _, _ => False

/-- The seven SET commands. -/
def IsSet (i : Instr) : Prop := i ≠ .advance ∧ i ≠ .removeDc ∧ i ≠ .readSample

/-- One side of REMOVE_DC (47_dc_filter.md R206): from the filter state `d` and the input `x` to the filter state `d'`
and the output `y`. -/
def DcFiltered (N : Numerics) (d d' : DcState) (x y : Amp) : Prop :=
  d'.sum = N.add d.sum (N.sub x (d.delay[d.widx.val]'d.widx.isLt)) ∧
  d'.widx.val = (d.widx.val + 1) % 1024 ∧
  (∀ i : Fin 1024, d'.delay[i.val]'i.isLt = if i = d.widx then x else d.delay[i.val]'i.isLt) ∧
  y = N.sub x (N.divInt d'.sum 1024)

/-! ### The passes of ADVANCE's loop (44_clock_stepping.md R173) -/

/-- The pass that emits an oversampled sample, from `e` to `e'`: MOD leaves the phase; with `t = (INC - phase') / INC` of the
phase then left, embedded by `ofRat`, each side's filter is written with its interpolator's value at `t`; nothing else
changes. -/
def EmitsSample (P : Params) (e e' : Engine) : Prop :=
  e'.phase + e.config.mod = e.phase ∧
  (∀ t : Amp, t = P.num.ofRat (((e.config.inc : ℚ) - (e'.phase : ℚ)) / (e.config.inc : ℚ)) →
    e'.fir.left = firWrite e.fir.left (interpEval P.num e.interp.left t) ∧
    e'.fir.right = firWrite e.fir.right (interpEval P.num e.interp.right t)) ∧
  { e' with phase := e.phase, fir := e.fir } = e

/-- The pass that runs a native tick, from `e` to `e'`: NativeTick, and INC joins the phase. -/
def RunsTick (P : Params) (e e' : Engine) : Prop :=
  e' = { nativeTick P e with phase := e.phase + e.config.inc }

/-- One pass of the loop, on (`emitted`, engine): with fewer than 8 samples emitted, an emission if the phase has reached
MOD, else a native tick. -/
def LoopPass (P : Params) (p q : Nat × Engine) : Prop :=
  p.1 < 8 ∧
  (p.2.config.mod ≤ p.2.phase → q.1 = p.1 + 1 ∧ EmitsSample P p.2 q.2) ∧
  (p.2.phase < p.2.config.mod → q.1 = p.1 ∧ RunsTick P p.2 q.2)

/-! ### Time -/

/-- Native ticks of one ADVANCE (44_clock_stepping.md R174): the least T with `phase + T * INC >= 8 * MOD`. -/
def ticksDue (c : ConfigLatch) (phase : Nat) : Nat := (8 * c.mod - phase + (c.inc - 1)) / c.inc

/-- `n` ADVANCE commands, one after another, under the parameters `P`. -/
def advanceTimes (P : Params) : Nat → State → Result
  | 0, s => .next s
  | n + 1, s =>
    match execAdvanceWith P s with
    | .next t => advanceTimes P n t
    | .fault r => .fault r
    | .refused r => .refused r

/-- The value of `env_value` after `k` rollovers from SET_ENV_SHAPE under the default ENV_FLAGS: the table of
42_envelope_generator.md R136, row by row. -/
def rampTable (shape : BitVec 4) (k : Nat) : Nat :=
  match shape.toNat with
  | 8 => 31 - k % 32
  | 10 => if k % 64 < 32 then 31 - k % 64 else k % 64 - 32
  | 11 => if k < 32 then 31 - k else 31
  | 12 => k % 32
  | 13 => if k < 32 then k else 31
  | 14 => if k % 64 < 32 then k % 64 else 63 - k % 64
  | 4 | 5 | 6 | 7 | 15 => if k < 32 then k else 0
  | _ => if k < 32 then 31 - k else 0

/-! ### Left and right (48_output.md R217) -/

/-- The two sides of every stage after the mixer are alike. -/
structure Engine.SidesAlike (e : Engine) : Prop where
  interp : e.interp.left = e.interp.right
  fir : e.fir.left = e.fir.right
  dc : e.dc.left = e.dc.right
  out : e.out.left = e.out.right

/-- The sides are alike, and every channel is panned alike. -/
structure Engine.Symmetric (e : Engine) : Prop where
  pan : ∀ c, (e.tone.get c).panLeft = (e.tone.get c).panRight
  sides : e.SidesAlike

/-- R217's condition on channel `c` for the native ticks ahead: it is panned alike, or its amplitude is zero at every one of
them, zero times either weight being the same in NUMERICS. Tick `k + 1` mixes the generators' values after `k + 1` steps. -/
def Engine.ContributesAlike (P : Params) (e : Engine) (c : Channel) : Prop :=
  (e.tone.get c).panLeft = (e.tone.get c).panRight ∨
  (P.num.mul P.num.zero (e.tone.get c).panLeft = P.num.mul P.num.zero (e.tone.get c).panRight ∧
    ∀ k : Nat, channelAmp P e.config.variant ((noiseStep P)^[k + 1] e.noise).bit ((envStep P)^[k + 1] e.env).value
      (toneStep^[k + 1] (e.tone.get c)) = P.num.zero)

/-- The input is an accepted SET_PAN whose two weights differ. -/
def HostInput.PansUnequally (P : Params) (i : HostInput) : Prop :=
  ∃ w c eqp raw, i = .command w ∧ decode w = .ok (.setPan (some c) eqp raw) ∧
    (panWeights P eqp (panOf raw)).1 ≠ (panWeights P eqp (panOf raw)).2

end Sys2Proof.Machine
end

