-- ==== Sys2Proof/Certificates/Slice0/Obligations.lean ====
section
/-! DEFINITION. The statements for the provers. A docstring names the rule of spec/ a statement formalises; "D<n>" is a
decision of 92_eei_decisions.md (the spec's own choice), "log entry <n>" one of this model's. Statements about a
`…With P` meaning hold for every value of the open parameters; `exec` is that meaning at `Config.params`. -/

open Sys2Proof Sys2Proof.Machine

/-! ### Encoding (30_encoding.md) -/

/-- R80 to R83, R90 (bit positions: D1): decoding the word of a well-formed command gives the command back, whatever its
operands. -/
def Obligations.DecodeEncodeRoundTrip : Prop :=
  ∀ i : Instr, i.wellFormed = true → decode (encode i) = .ok i

/-- R84, R85 (D1): a word has at most one meaning and a command one word: encoding what a word decodes to gives the word
back, and the command is well-formed. -/
def Obligations.EncodeDecodeRoundTrip : Prop :=
  ∀ (w : CommandWord) (i : Instr), decode w = .ok i → encode i = w ∧ i.wellFormed = true

/-- R83: "a word w selects the row iff w & mask = match", for every row of the opcode map and every word. -/
def Obligations.DecodeSelectsOpcodeMapRow : Prop :=
  ∀ (op : Nat) (pattern mask : CommandWord), (op, pattern, mask) ∈ opcodeMap →
    ∀ w : CommandWord, (w &&& mask = pattern ↔ ∃ i, decode w = .ok i ∧ i.opcode = op)

/-- R84 (D4): a word is refused exactly when OP is 0 or 0xB to 0xF, or an RSV bit is set, or F is set outside SET_PAN, or
CH is not 0 in formats S and N, or ARG is not 0 in format N, or ARG[31:3] is not 0 in SET_MIXER. CH = 3 in formats C, P
and M is not among the reasons. -/
def Obligations.DecodeRefusesExactlyIllegalWords : Prop :=
  ∀ w : CommandWord, (∃ r, decode w = .error r) ↔
    (fieldOP w = 0#4 ∨ 11 ≤ (fieldOP w).toNat ∨
     fieldRSV w ≠ 0#25 ∨
     (fieldF w ≠ 0#1 ∧ fieldOP w ≠ 2#4) ∨
     (fieldCH w ≠ 0#2 ∧ 5 ≤ (fieldOP w).toNat) ∨
     (fieldARG w ≠ 0#32 ∧ 8 ≤ (fieldOP w).toNat) ∨
     (fieldOP w = 4#4 ∧ (fieldARG w).extractLsb' 3 29 ≠ 0#29))

/-- Words written out in the spec's rules R111, R121, R131, R132, R152, R153, R154, R173, R206, R216 decode to the commands
they stand for, and the all-zero word (R84) to none. -/
def Obligations.SpecWordsDecode : Prop :=
  decode 0x10000000000001B8#64 = .ok (.setTonePeriod (some .A) 440) ∧
  decode 0x2400000100010000#64 = .ok (.setPan (some .B) true 65536) ∧
  decode 0x3000000000000010#64 = .ok (.setVolume (some .A) 16) ∧
  decode 0x4000000000000001#64 = .ok (.setMixer (some .A) true false false) ∧
  decode 0x500000000000001F#64 = .ok (.setNoisePeriod 31) ∧
  decode 0x60000000000003E8#64 = .ok (.setEnvPeriod 1000) ∧
  decode 0x700000000000000E#64 = .ok (.setEnvShape 14) ∧
  decode 0x8000000000000000#64 = .ok .advance ∧
  decode 0x9000000000000000#64 = .ok .removeDc ∧
  decode 0xA000000000000000#64 = .ok .readSample ∧
  ∃ r, decode 0x0000000000000000#64 = .error r

/-! ### The step, admission, errors (60_exceptions.md) -/

/-- R227, step 4 (D34): a command word that decodes to `i`, in a state that admits commands, makes the step exactly `exec i`
on the state with that input taken off the host's list (log entry 5). -/
def Obligations.StepRunsDecodedInstruction : Prop :=
  ∀ (s : State) (w : CommandWord) (rest : List HostInput) (i : Instr),
    s.inputs = .command w :: rest → s.engine.config.cfgOk = true → s.engine.fatal = false → decode w = .ok i →
    step s = exec i { s with inputs := rest }

/-- R227, steps 1 to 3 (D34): with `cfg_ok = 0` every word is answered InvalidConfig; else with `fatal = 1` every word is
answered Fatal; else a word that does not decode is answered IllegalCommand; each time nothing else changes. -/
def Obligations.AdmissionErrorsInPriorityOrder : Prop :=
  ∀ (s : State) (w : CommandWord) (rest : List HostInput), s.inputs = .command w :: rest →
    (s.engine.config.cfgOk = false →
      step s = .next (State.rejectedWith { s with inputs := rest } .invalidConfig)) ∧
    (s.engine.config.cfgOk = true → s.engine.fatal = true →
      step s = .next (State.rejectedWith { s with inputs := rest } .fatal)) ∧
    (s.engine.config.cfgOk = true → s.engine.fatal = false → (∃ r, decode w = .error r) →
      step s = .next (State.rejectedWith { s with inputs := rest } .illegalCommand))

/-- R220 (the recoverable report: D32; no DATA: D1; the host's list: log entry 5): a command that is answered with anything
but OK changes no state element, and its response has no DATA. The core then stands before the host's next command with its
admission state as before: the error is not sticky. -/
def Obligations.ErrorResponseChangesNothing : Prop :=
  ∀ (s t : State) (w : CommandWord) (rest : List HostInput) (r : Response),
    s.inputs = .command w :: rest → step s = .next t → t.response = some r → r.status ≠ .ok →
    t.engine = s.engine ∧ r.data = none ∧ t.inputs = rest

/-- R86 (absence of DATA: D1): every command produces exactly one response; DATA is present only when the command is
READ_SAMPLE and STATUS is OK, and is then the encoded output pair. -/
def Obligations.ResponseDataOnlyFromReadSample : Prop :=
  ∀ (s t : State) (w : CommandWord) (rest : List HostInput),
    s.inputs = .command w :: rest → step s = .next t →
    ∃ r, t.response = some r ∧
      (r.data ≠ none ↔ r.status = .ok ∧ decode w = .ok .readSample) ∧
      (r.data ≠ none → r.data =
        some (Config.params.num.enc s.engine.out.left, Config.params.num.enc s.engine.out.right))

/-- R221 (the codes: D32): the six STATUS codes, and which errors a command's own rule raises: OutOfRange the seven SET
commands, NotValid REMOVE_DC and READ_SAMPLE, no other. -/
def Obligations.CommandErrorsAsTabled : Prop :=
  (Status.code .ok = 0#4 ∧ Status.code .invalidConfig = 1#4 ∧ Status.code .outOfRange = 2#4 ∧
    Status.code .illegalCommand = 3#4 ∧ Status.code .notValid = 4#4 ∧ Status.code .fatal = 5#4) ∧
  ∀ (i : Instr) (s t : State), exec i s = .next t →
    ∃ r, t.response = some r ∧
      (r.status = .ok ∨ (r.status = .outOfRange ∧ IsSet i) ∨
        (r.status = .notValid ∧ (i = .removeDc ∨ i = .readSample)))

/-- R223 (upper bounds of the periods: D17): the complete list of causes of OutOfRange, and nothing else is answered so; the
rejected command changes nothing but the response. -/
def Obligations.OutOfRangeExactlyAsListed : Prop :=
  ∀ (i : Instr) (s : State), exec i s = .next (s.rejectedWith .outOfRange) ↔ OutOfRangeOperand i

/-- R225 (D30): REMOVE_DC and READ_SAMPLE are answered NotValid while `out_valid = 0`, and change nothing. -/
def Obligations.NotValidBeforeFirstAdvance : Prop :=
  ∀ s : State, s.engine.out.valid = false →
    exec .removeDc s = .next (s.rejectedWith .notValid) ∧ exec .readSample s = .next (s.rejectedWith .notValid)

/-- R89, in the model's own terms: there is no control transfer, so every step takes exactly the host's next input off the
list (the model's own: log entry 5), accepted or rejected, and RESET leaves the rest of it (the model's choice: log entry
8). -/
def Obligations.EveryStepTakesTheNextInput : Prop :=
  ∀ (s t : State) (i : HostInput) (rest : List HostInput),
    s.inputs = i :: rest → step s = .next t → t.inputs = rest

/-! ### RESET and the configuration latch (70_reset_and_hazards.md, 10_state.md) -/

/-- R250 (the LFSR seed: D9; one RESET, no response: D45): RESET, applied in any state, gives every state element the value
listed. That the response field is empty then and the rest of the host's list stays are the model's choices (log entries 6
and 8). -/
def Obligations.ResetInputRebuildsTheEngine : Prop :=
  ∀ (s : State) (st : Straps) (rest : List HostInput), s.inputs = .reset st :: rest →
    ∃ t, step s = .next t ∧ t.response = none ∧ t.inputs = rest ∧
      t.engine.config.variant = st.variant ∧
      (0 < st.clkHz.toInt → 0 < st.outHz.toInt →
        t.engine.config.cfgOk = true ∧ (t.engine.config.clkHz : Int) = st.clkHz.toInt ∧
        (t.engine.config.outHz : Int) = st.outHz.toInt) ∧
      (¬(0 < st.clkHz.toInt ∧ 0 < st.outHz.toInt) →
        t.engine.config.cfgOk = false ∧ t.engine.config.clkHz = 0 ∧ t.engine.config.outHz = 0) ∧
      (∀ c, t.engine.tone.get c =
        ⟨0#16, 0#16, false, false, false, false, 0#4, Config.params.num.zero, Config.params.num.zero⟩) ∧
      t.engine.noise = ⟨0#5, 0#6, Config.params.noiseSeed.toNat, false⟩ ∧
      t.engine.env = ⟨0#16, 0#16, 0#5, 0#4, .down, false⟩ ∧
      t.engine.phase = 0 ∧
      (∀ side, t.engine.interp.get side =
        ⟨⟨Config.params.num.zero, Config.params.num.zero, Config.params.num.zero, Config.params.num.zero⟩,
         ⟨Config.params.num.zero, Config.params.num.zero, Config.params.num.zero, Config.params.num.zero⟩⟩) ∧
      (∀ side, (t.engine.fir.get side).widx = 0 ∧
        ∀ i : Fin 384, (t.engine.fir.get side).buf[i.val]'i.isLt = Config.params.num.zero) ∧
      (∀ side, (t.engine.dc.get side).widx = 0 ∧ (t.engine.dc.get side).sum = Config.params.num.zero ∧
        ∀ i : Fin 1024, (t.engine.dc.get side).delay[i.val]'i.isLt = Config.params.num.zero) ∧
      t.engine.out = ⟨Config.params.num.zero, Config.params.num.zero, false⟩ ∧
      t.engine.fatal = false

/-- R232: RESET is the only exit from `cfg_ok = 0` and from `fatal = 1`: no command leaves either; RESET with valid straps
leaves both. -/
def Obligations.OnlyResetLeavesInvalidConfigAndFatal : Prop :=
  (∀ (s t : State) (w : CommandWord) (rest : List HostInput), s.inputs = .command w :: rest → step s = .next t →
    (s.engine.config.cfgOk = false → t.engine.config.cfgOk = false) ∧
    (s.engine.fatal = true → t.engine.fatal = true)) ∧
  (∀ (s t : State) (st : Straps) (rest : List HostInput), s.inputs = .reset st :: rest → step s = .next t →
    0 < st.clkHz.toInt → 0 < st.outHz.toInt → t.engine.config.cfgOk = true ∧ t.engine.fatal = false)

/-- R21, R250, R251 (the latched failure, with both rates 0: D33): the configuration latch is written only by RESET, and RESET
sets `cfg_ok` iff both sampled rates are positive; so both rates stay strictly positive while `cfg_ok = 1`, and are 0
while `cfg_ok = 0`. -/
def Obligations.ConfigLatchWrittenOnlyByReset : Prop :=
  (∀ (s t : State), step s = .next t → (∀ st rest, s.inputs ≠ .reset st :: rest) →
    t.engine.config = s.engine.config) ∧
  (∀ (s t : State) (st : Straps) (rest : List HostInput), s.inputs = .reset st :: rest → step s = .next t →
    (t.engine.config.cfgOk = true ↔ 0 < st.clkHz.toInt ∧ 0 < st.outHz.toInt) ∧ t.engine.config.Ok)

/-- State.reset is RESET with the straps of log entry 4 (the model's choice, R250's own example), and after RESET with any
straps the invariant of the machine holds. -/
def Obligations.ResetSatisfiesInvariant : Prop :=
  State.reset.engine.config = ⟨true, .AY, 1000000, 44100⟩ ∧ State.reset = State.resetWith Config.straps ∧
  ∀ st : Straps, (State.resetWith st).Inv

/-! ### The SET commands -/

/-- R111 (D17 for the bound): SET_TONE_PERIOD completes for every channel and every n in 0..65535, stores n, and touches
nothing else, the channel's counter and level included. -/
def Obligations.SetTonePeriodStoresThePeriod : Prop :=
  ∀ (c : Channel) (n : Int) (s : State), 0 ≤ n → n ≤ 65535 →
    ∃ t, exec (.setTonePeriod (some c) n) s = .next t ∧ AnsweredOk t ∧ OnlyToneChannel c s t ∧
      ((t.engine.tone.get c).period.toNat : Int) = n ∧
      { t.engine.tone.get c with period := (s.engine.tone.get c).period } = s.engine.tone.get c

/-- R152: SET_VOLUME completes for every channel and every n in 0..15 and stores n; for CH = 3 and for every other n it is
rejected with OutOfRange and the state is as before. -/
def Obligations.SetVolumeStoresOrRejects : Prop :=
  (∀ (c : Channel) (n : Int) (s : State), 0 ≤ n → n ≤ 15 →
    ∃ t, exec (.setVolume (some c) n) s = .next t ∧ AnsweredOk t ∧ OnlyToneChannel c s t ∧
      ((t.engine.tone.get c).volume.toNat : Int) = n ∧
      { t.engine.tone.get c with volume := (s.engine.tone.get c).volume } = s.engine.tone.get c) ∧
  (∀ (ch : ChannelField) (n : Int) (s : State), (ch = none ∨ n < 0 ∨ 15 < n) →
    exec (.setVolume ch n) s = .next (s.rejectedWith .outOfRange))

/-- R153: SET_MIXER completes for every channel and stores the inverted tone and noise enables and the envelope enable,
together, and touches nothing else. -/
def Obligations.SetMixerStoresInvertedEnables : Prop :=
  ∀ (c : Channel) (tn no en : Bool) (s : State),
    ∃ t, exec (.setMixer (some c) tn no en) s = .next t ∧ AnsweredOk t ∧ OnlyToneChannel c s t ∧
      (t.engine.tone.get c).tOff = !tn ∧ (t.engine.tone.get c).nOff = !no ∧ (t.engine.tone.get c).eOn = en ∧
      { t.engine.tone.get c with
        tOff := (s.engine.tone.get c).tOff, nOff := (s.engine.tone.get c).nOff,
        eOn := (s.engine.tone.get c).eOn } = s.engine.tone.get c

/-- R154 (D26): SET_PAN completes for every channel and every ARG: p is ARG / 65536 clamped to [0, 1], never rejected; the
weights are 1 - p and p, through SQRT when F = 1 (the literal 1 and p embedded by `ofRat`: log entry 11). -/
def Obligations.SetPanStoresClampedWeights : Prop :=
  ∀ (c : Channel) (eqp : Bool) (raw : Int) (s : State),
    ∃ t, exec (.setPan (some c) eqp raw) s = .next t ∧ AnsweredOk t ∧ OnlyToneChannel c s t ∧
      { t.engine.tone.get c with
        panLeft := (s.engine.tone.get c).panLeft,
        panRight := (s.engine.tone.get c).panRight } = s.engine.tone.get c ∧
      ∀ p : ℚ, (raw < 0 → p = 0) → (65536 < raw → p = 1) → (0 ≤ raw → raw ≤ 65536 → p * 65536 = (raw : ℚ)) →
        (eqp = false →
          (t.engine.tone.get c).panLeft =
            Config.params.num.sub (Config.params.num.ofRat 1) (Config.params.num.ofRat p) ∧
          (t.engine.tone.get c).panRight = Config.params.num.ofRat p) ∧
        (eqp = true →
          (t.engine.tone.get c).panLeft =
            Config.params.sqrt (Config.params.num.sub (Config.params.num.ofRat 1) (Config.params.num.ofRat p)) ∧
          (t.engine.tone.get c).panRight = Config.params.sqrt (Config.params.num.ofRat p))

/-- R45 (legal values 0..1 of the pan weights), with R154 (D26) and C13, exact numerics, under R6's range of SQRT: the
weights lie in [0, 1] after RESET, and SET_PAN, the only command that writes them, keeps them there under both laws. -/
def Obligations.PanWeightsStayInUnit : Prop :=
  ∀ P : Params, P.SqrtInUnit →
    (∀ st : Straps, PansInUnit (resetEngine P.withExact st).tone) ∧
    ∀ (ch : ChannelField) (eqp : Bool) (raw : Int) (s t : State), PansInUnit s.engine.tone →
      execSetPanWith P.withExact ch eqp raw s = .next t → PansInUnit t.engine.tone

/-- R121 (D17, D21): SET_NOISE_PERIOD completes for every n in 0..31, stores n, and touches nothing else. -/
def Obligations.SetNoisePeriodStoresThePeriod : Prop :=
  ∀ (n : Int) (s : State), 0 ≤ n → n ≤ 31 →
    ∃ t, exec (.setNoisePeriod n) s = .next t ∧ AnsweredOk t ∧ OnlyNoise s t ∧
      (t.engine.noise.period.toNat : Int) = n ∧
      { t.engine.noise with period := s.engine.noise.period } = s.engine.noise

/-- R131 (D17, D21): SET_ENV_PERIOD completes for every n in 0..65535, stores n, and touches nothing else. -/
def Obligations.SetEnvPeriodStoresThePeriod : Prop :=
  ∀ (n : Int) (s : State), 0 ≤ n → n ≤ 65535 →
    ∃ t, exec (.setEnvPeriod n) s = .next t ∧ AnsweredOk t ∧ OnlyEnv s t ∧
      (t.engine.env.period.toNat : Int) = n ∧
      { t.engine.env with period := s.engine.env.period } = s.engine.env

/-- R132 (D20 for the counter): SET_ENV_SHAPE completes for every n in 0..15, stores n, clears the counter and the frozen
flag, and restarts the ramp in the shape's attack direction from the far end; also when n is already active. -/
def Obligations.SetEnvShapeRestartsTheEnvelope : Prop :=
  ∀ (n : Int) (s : State), 0 ≤ n → n ≤ 15 →
    ∃ t, exec (.setEnvShape n) s = .next t ∧ AnsweredOk t ∧ OnlyEnv s t ∧
      (t.engine.env.shape.toNat : Int) = n ∧ t.engine.env.counter = 0#16 ∧ t.engine.env.frozen = false ∧
      t.engine.env.period = s.engine.env.period ∧
      t.engine.env.dir = (if (Config.params.envFlags t.engine.env.shape).att then .up else .down) ∧
      t.engine.env.value = (if (Config.params.envFlags t.engine.env.shape).att then 0#5 else 31#5)

/-- R256: of two writes to the same register only the last has any effect: after any command `i`, an accepted command `j`
that writes the same register gives what it gives without `i`. -/
def Obligations.LastWriteWins : Prop :=
  ∀ (i j : Instr) (s t : State), SameRegister i j → ¬OutOfRangeOperand j → exec i s = .next t → exec j t = exec j s

/-- R21 to R42, R45: each state element is changed by no command but those its rule names: the whole machine's frame. -/
def Obligations.ElementsWrittenOnlyByTheirCommands : Prop :=
  ∀ (i : Instr) (s t : State), exec i s = .next t →
    t.engine.config = s.engine.config ∧ t.inputs = s.inputs ∧
    (∀ c, (∀ n, i ≠ .setTonePeriod (some c) n) → (t.engine.tone.get c).period = (s.engine.tone.get c).period) ∧
    (∀ c, (∀ n, i ≠ .setVolume (some c) n) → (t.engine.tone.get c).volume = (s.engine.tone.get c).volume) ∧
    (∀ c, (∀ x y z, i ≠ .setMixer (some c) x y z) →
      (t.engine.tone.get c).tOff = (s.engine.tone.get c).tOff ∧
      (t.engine.tone.get c).nOff = (s.engine.tone.get c).nOff ∧
      (t.engine.tone.get c).eOn = (s.engine.tone.get c).eOn) ∧
    (∀ c, (∀ f p, i ≠ .setPan (some c) f p) →
      (t.engine.tone.get c).panLeft = (s.engine.tone.get c).panLeft ∧
      (t.engine.tone.get c).panRight = (s.engine.tone.get c).panRight) ∧
    ((∀ n, i ≠ .setNoisePeriod n) → t.engine.noise.period = s.engine.noise.period) ∧
    ((∀ n, i ≠ .setEnvPeriod n) → t.engine.env.period = s.engine.env.period) ∧
    ((∀ n, i ≠ .setEnvShape n) → t.engine.env.shape = s.engine.env.shape) ∧
    (i ≠ .advance →
      (∀ c, (t.engine.tone.get c).counter = (s.engine.tone.get c).counter ∧
        (t.engine.tone.get c).level = (s.engine.tone.get c).level) ∧
      t.engine.noise.counter = s.engine.noise.counter ∧ t.engine.noise.lfsr = s.engine.noise.lfsr ∧
      t.engine.noise.bit = s.engine.noise.bit ∧
      t.engine.phase = s.engine.phase ∧ t.engine.interp = s.engine.interp ∧ t.engine.fir = s.engine.fir ∧
      t.engine.out.valid = s.engine.out.valid) ∧
    (i ≠ .advance → (∀ n, i ≠ .setEnvShape n) →
      t.engine.env.counter = s.engine.env.counter ∧ t.engine.env.value = s.engine.env.value ∧
      t.engine.env.dir = s.engine.env.dir ∧ t.engine.env.frozen = s.engine.env.frozen) ∧
    (i ≠ .removeDc → t.engine.dc = s.engine.dc) ∧
    (i ≠ .advance → i ≠ .removeDc → t.engine.out = s.engine.out ∧ t.engine.fatal = s.engine.fatal) ∧
    (s.engine.out.valid = true → t.engine.out.valid = true) ∧
    (s.engine.fatal = true → t.engine.fatal = true)

/-! ### Tone generator (40_tone_generator.md) -/

/-- R112 (D18): ToneStep increments, compares at-least, clears and toggles at a rollover, and touches nothing else. -/
def Obligations.ToneStepCountsAndToggles : Prop :=
  ∀ t : ToneChannel,
    (t.period.toNat ≤ t.counter.toNat + 1 → toneStep t = { t with counter := 0#16, level := !t.level }) ∧
    (t.counter.toNat + 1 < t.period.toNat →
      (toneStep t).counter.toNat = t.counter.toNat + 1 ∧ { toneStep t with counter := t.counter } = t)

/-- R113 (derived there from R112): with the period held, the level toggles once every max(P, 1) ticks: k ticks after a
cleared counter it has toggled k / max(P, 1) times, and the counter is k mod max(P, 1). -/
def Obligations.ToneToggleInterval : Prop :=
  ∀ (t : ToneChannel) (k : Nat), t.counter = 0#16 →
    (toneStep^[k] t).counter.toNat = k % max t.period.toNat 1 ∧
    (toneStep^[k] t).level = (t.level ^^ decide (k / max t.period.toNat 1 % 2 = 1))

/-- R114 (derived there): a period lowered to at most counter + 1 rolls over at the very next tick, after which the
interval is the new one; a larger period lengthens the running half-cycle to itself. -/
def Obligations.TonePeriodChangedWhileCounting : Prop :=
  ∀ (t : ToneChannel) (k : Nat),
    (t.period.toNat ≤ t.counter.toNat + 1 →
      (toneStep^[k + 1] t).counter.toNat = k % max t.period.toNat 1 ∧
      (toneStep^[k + 1] t).level = (!t.level ^^ decide (k / max t.period.toNat 1 % 2 = 1))) ∧
    (t.counter.toNat + k < t.period.toNat →
      (toneStep^[k] t).counter.toNat = t.counter.toNat + k ∧ (toneStep^[k] t).level = t.level)

/-! ### Noise generator (41_noise_generator.md) -/

/-- R122 (D22 the factor 2, D23 the sampling after the shift): NoiseStep counts to twice the period; at a rollover the
register steps and the bit is taken from the register just written; else only the counter moves. -/
def Obligations.NoiseStepCountsAndShifts : Prop :=
  ∀ (P : Params) (n : NoiseState),
    (2 * n.period.toNat ≤ n.counter.toNat + 1 →
      (noiseStep P n).counter = 0#6 ∧ (noiseStep P n).period = n.period ∧
      lfsrBits P (noiseStep P n) = P.lfsrNext (lfsrBits P n) ∧
      (noiseStep P n).bit = P.lfsrOut (lfsrBits P (noiseStep P n))) ∧
    (n.counter.toNat + 1 < 2 * n.period.toNat →
      (noiseStep P n).counter.toNat = n.counter.toNat + 1 ∧ { noiseStep P n with counter := n.counter } = n)

/-- R124 (derived there): with the period N held, the register shifts once every max(2N, 1) ticks. -/
def Obligations.NoiseShiftInterval : Prop :=
  ∀ (P : Params) (n : NoiseState) (k : Nat), n.counter = 0#6 →
    ((noiseStep P)^[k] n).counter.toNat = k % max (2 * n.period.toNat) 1 ∧
    lfsrBits P ((noiseStep P)^[k] n) = P.lfsrNext^[k / max (2 * n.period.toNat) 1] (lfsrBits P n)

/-- R125: from reset `noise_bit` is 0 until the first shift, whatever LFSR_OUT of the seed is, so that a channel with noise
enabled is gated off; from the first shift on the bit is LFSR_OUT of the register. -/
def Obligations.NoiseBitZeroBeforeFirstShift : Prop :=
  ∀ (P : Params) (N : BitVec 5) (k : Nat),
    (k < max (2 * N.toNat) 1 →
      ((noiseStep P)^[k] { resetNoise P with period := N }).bit = false ∧
      ∀ t : ToneChannel, t.nOff = false →
        gate t ((noiseStep P)^[k] { resetNoise P with period := N }).bit = false) ∧
    (max (2 * N.toNat) 1 ≤ k →
      ((noiseStep P)^[k] { resetNoise P with period := N }).bit =
        P.lfsrOut (P.lfsrNext^[k / max (2 * N.toNat) 1] P.noiseSeed))

/-! ### Envelope generator (42_envelope_generator.md) -/

/-- R134 (D25) and R135 (its reading of the four flags: general knowledge, 93_implementation_defined.md GK2): one ramp
step, and the action at a boundary by the active shape's flags. -/
def Obligations.EnvAdvanceRampsAndActsAtBoundary : Prop :=
  ∀ (P : Params) (e : EnvState),
    (e.frozen = true → envAdvance P e = e) ∧
    (e.frozen = false → e.dir = .up → e.value.toNat < 31 →
      (envAdvance P e).value.toNat = e.value.toNat + 1 ∧ { envAdvance P e with value := e.value } = e) ∧
    (e.frozen = false → e.dir = .down → 0 < e.value.toNat →
      (envAdvance P e).value.toNat = e.value.toNat - 1 ∧ { envAdvance P e with value := e.value } = e) ∧
    (e.frozen = false → (e.dir = .up ∧ e.value = 31#5 ∨ e.dir = .down ∧ e.value = 0#5) →
      ((P.envFlags e.shape).cont = false → envAdvance P e = { e with value := 0#5, frozen := true }) ∧
      ((P.envFlags e.shape).cont = true → (P.envFlags e.shape).hold = true → (P.envFlags e.shape).alt = false →
        envAdvance P e = { e with frozen := true }) ∧
      ((P.envFlags e.shape).cont = true → (P.envFlags e.shape).hold = true → (P.envFlags e.shape).alt = true →
        (envAdvance P e).value.toNat = 31 - e.value.toNat ∧
        { envAdvance P e with value := e.value } = { e with frozen := true }) ∧
      ((P.envFlags e.shape).cont = true → (P.envFlags e.shape).hold = false → (P.envFlags e.shape).alt = true →
        (envAdvance P e).dir ≠ e.dir ∧ { envAdvance P e with dir := e.dir } = e) ∧
      ((P.envFlags e.shape).cont = true → (P.envFlags e.shape).hold = false → (P.envFlags e.shape).alt = false →
        (envAdvance P e).value.toNat = 31 - e.value.toNat ∧ { envAdvance P e with value := e.value } = e))

/-- R138 (derived there from R133): with the period P held, EnvAdvance runs once every max(P, 1) ticks. -/
def Obligations.EnvRolloverInterval : Prop :=
  ∀ (P : Params) (e : EnvState) (k : Nat), e.counter = 0#16 →
    ((envStep P)^[k] e).counter.toNat = k % max e.period.toNat 1 ∧
    { (envStep P)^[k] e with counter := 0#16 } = (envAdvance P)^[k / max e.period.toNat 1] e

/-- R136 (derived there; the default ENV_FLAGS of R137 is general knowledge): the sixteen ramp sequences, at every
rollover after SET_ENV_SHAPE, for ever. -/
def Obligations.EnvRampSequences : Prop :=
  ∀ (P : Params) (shape : BitVec 4) (e : EnvState) (k : Nat), P.envFlags = Config.defaultEnvFlags →
    ((envAdvance P)^[k] (envRestart P shape e)).value.toNat = rampTable shape k

/-- R139 (derived there; default ENV_FLAGS): with no SET_ENV_SHAPE the envelope stays at 0 from reset, and is frozen from
the first rollover on, under any period. -/
def Obligations.EnvelopeFromResetStaysZero : Prop :=
  ∀ (P : Params) (period : BitVec 16) (k : Nat), P.envFlags = Config.defaultEnvFlags →
    ((envStep P)^[k] { resetEnv with period := period }).value = 0#5 ∧
    (((envStep P)^[k] { resetEnv with period := period }).frozen = true ↔ max period.toNat 1 ≤ k)

/-! ### Mixer / DAC stage (43_mixer_dac.md) -/

/-- R160, R161: each side of the raw sample is the sum, over channels A, B, C in this order from Amp zero, of the channel's
DAC amplitude times its pan weight; the DAC table is read at the chip variant and the channel's index. -/
def Obligations.MixSumsThreePannedChannels : Prop :=
  ∀ (P : Params) (v : Variant) (tone : Channels ToneChannel) (bit : Bool) (env : BitVec 5),
    (mix P v tone bit env).left =
      P.num.add (P.num.add (P.num.add P.num.zero
        (P.num.mul (P.dacTable v (dacIndex tone.a bit env)) tone.a.panLeft))
        (P.num.mul (P.dacTable v (dacIndex tone.b bit env)) tone.b.panLeft))
        (P.num.mul (P.dacTable v (dacIndex tone.c bit env)) tone.c.panLeft) ∧
    (mix P v tone bit env).right =
      P.num.add (P.num.add (P.num.add P.num.zero
        (P.num.mul (P.dacTable v (dacIndex tone.a bit env)) tone.a.panRight))
        (P.num.mul (P.dacTable v (dacIndex tone.b bit env)) tone.b.panRight))
        (P.num.mul (P.dacTable v (dacIndex tone.c bit env)) tone.c.panRight)

/-- R158, R159 (the AND and the closed gate's index 0: D28): the index is 0 unless (level or tone off) and (noise or noise
off); then it is the envelope value, or twice the volume. -/
def Obligations.DacIndexFromGateAndLevel : Prop :=
  ∀ (t : ToneChannel) (bit : Bool) (env : BitVec 5),
    ((t.level = true ∨ t.tOff = true) → (bit = true ∨ t.nOff = true) →
      (t.eOn = true → (dacIndex t bit env).val = env.toNat) ∧
      (t.eOn = false → (dacIndex t bit env).val = 2 * t.volume.toNat)) ∧
    ((t.level = false ∧ t.tOff = false) ∨ (bit = false ∧ t.nOff = false) → (dacIndex t bit env).val = 0)

/-- R162 (a), (b) (derived there), under R7 (a) and (b): a channel with everything off and volume 0 contributes exactly
zero; for fixed flags the amplitude does not decrease with the static volume. -/
def Obligations.VolumeZeroSilentAndMonotone : Prop :=
  ∀ (P : Params) (v : Variant) (bit : Bool) (env : BitVec 5) (t : ToneChannel),
    (P.DacZeroAtZero → t.tOff = true → t.nOff = true → t.eOn = false → t.volume = 0#4 →
      channelAmp P v bit env t = P.num.zero) ∧
    (P.DacEvenMonotone → t.eOn = false → ∀ a b : BitVec 4, a.toNat ≤ b.toNat →
      channelAmp P v bit env { t with volume := a } ≤ channelAmp P v bit env { t with volume := b })

/-- R162 (c) (derived there), under R7 (c), exact numerics: with pan weights in [0, 1] each side lies in [0, 3]. -/
def Obligations.RawSampleRange : Prop :=
  ∀ (P : Params) (v : Variant) (tone : Channels ToneChannel) (bit : Bool) (env : BitVec 5), P.withExact.DacInUnit →
    PansInUnit tone →
    0 ≤ (mix P.withExact v tone bit env).left ∧ (mix P.withExact v tone bit env).left ≤ 3 ∧
    0 ≤ (mix P.withExact v tone bit env).right ∧ (mix P.withExact v tone bit env).right ≤ 3

/-! ### Clock stepping and ADVANCE (44_clock_stepping.md) -/

/-- R172 (both interpolators fed at every tick: C2, D37; the order: D44): in a native tick the three tone generators, the
noise and the envelope step, the mixer reads their new values, and both interpolators take the raw sample; nothing else
changes. -/
def Obligations.NativeTickStepsThenMixes : Prop :=
  ∀ (P : Params) (e : Engine),
    (∀ c, (nativeTick P e).tone.get c = toneStep (e.tone.get c)) ∧
    (nativeTick P e).noise = noiseStep P e.noise ∧ (nativeTick P e).env = envStep P e.env ∧
    (nativeTick P e).interp.left = interpPush P.num e.interp.left
      (mix P e.config.variant (nativeTick P e).tone (nativeTick P e).noise.bit (nativeTick P e).env.value).left ∧
    (nativeTick P e).interp.right = interpPush P.num e.interp.right
      (mix P e.config.variant (nativeTick P e).tone (nativeTick P e).noise.bit (nativeTick P e).env.value).right ∧
    { nativeTick P e with tone := e.tone, noise := e.noise, env := e.env, interp := e.interp } = e

/-- R173 (D11): ADVANCE completes whenever OUT_HZ is positive: its loop ends; exactly 8 samples are written per side; the
two FIR results are latched, `out_valid` is set, and `fatal` is set only by a result that is not finite. -/
def Obligations.AdvanceCompletes : Prop :=
  ∀ s : State, 0 < s.engine.config.outHz →
    ∃ t, exec .advance s = .next t ∧ AnsweredOk t ∧ t.inputs = s.inputs ∧
      t.engine.out.valid = true ∧
      t.engine.out.left = firEval Config.params t.engine.fir.left ∧
      t.engine.out.right = firEval Config.params t.engine.fir.right ∧
      t.engine.fatal = (s.engine.fatal || !(Config.params.num.isFinite t.engine.out.left &&
        Config.params.num.isFinite t.engine.out.right)) ∧
      (∀ side, (t.engine.fir.get side).widx.val = ((s.engine.fir.get side).widx.val + 8) % 192) ∧
      (s.engine.phase < s.engine.config.inc → t.engine.phase < s.engine.config.inc)

/-- R173 (D10, D11; fed at every tick: C2, D37), R46 (d): a due sample is emitted by evaluating each side's interpolator at
`(INC - phase) / INC` of the reduced phase into that side's filter; and ADVANCE, whenever OUT_HZ is positive, is the sequence
of such emissions and native ticks, chosen at each pass by whether the phase has reached MOD, from the state it finds to the
eighth emission, then the latching of the two FIR results. Between commands phase < INC, and then it stays below MOD + INC
throughout, so that each offset lies in (0, 1]. -/
def Obligations.AdvanceRunsTheLoop : Prop :=
  (∀ (P : Params) (e : Engine), e.config.mod ≤ e.phase → EmitsSample P e (loopEmit P e)) ∧
  ∀ (P : Params) (s : State), 0 < s.engine.config.outHz →
    ∃ (t : State) (n : Nat) (run : Nat → Nat × Engine), execAdvanceWith P s = .next t ∧
      AnsweredOk t ∧ t.inputs = s.inputs ∧
      run 0 = (0, s.engine) ∧ (∀ i < n, LoopPass P (run i) (run (i + 1))) ∧ (run n).1 = 8 ∧
      t.engine.out = ⟨firEval P (run n).2.fir.left, firEval P (run n).2.fir.right, true⟩ ∧
      t.engine.fatal = (s.engine.fatal || !(P.num.isFinite t.engine.out.left && P.num.isFinite t.engine.out.right)) ∧
      { t.engine with out := (run n).2.out, fatal := (run n).2.fatal } = (run n).2 ∧
      (s.engine.phase < s.engine.config.inc →
        ∀ i ≤ n, (run i).2.phase < s.engine.config.mod + s.engine.config.inc)

/-- R174 (derived there), R46 (d): one ADVANCE runs every generator exactly T native ticks, T the least number with
phase + T * INC >= 8 * MOD; phase keeps the account; between commands T is CLK_HZ / OUT_HZ rounded down, or one more. -/
def Obligations.AdvanceTickCount : Prop :=
  ∀ (P : Params) (s t : State), 0 < s.engine.config.outHz → execAdvanceWith P s = .next t →
    (∀ c, t.engine.tone.get c = toneStep^[ticksDue s.engine.config s.engine.phase] (s.engine.tone.get c)) ∧
    t.engine.noise = (noiseStep P)^[ticksDue s.engine.config s.engine.phase] s.engine.noise ∧
    t.engine.env = (envStep P)^[ticksDue s.engine.config s.engine.phase] s.engine.env ∧
    t.engine.phase + 8 * s.engine.config.mod =
      s.engine.phase + ticksDue s.engine.config s.engine.phase * s.engine.config.inc ∧
    (s.engine.phase < s.engine.config.inc →
      ticksDue s.engine.config s.engine.phase = s.engine.config.clkHz / s.engine.config.outHz ∨
      ticksDue s.engine.config s.engine.phase = s.engine.config.clkHz / s.engine.config.outHz + 1)

/-- R174 (derived there): over n ADVANCE commands from a reset with valid straps, with nothing in between, all complete and
every generator has run exactly ceil(n * CLK_HZ / OUT_HZ) native ticks. -/
def Obligations.AdvanceRunTickCount : Prop :=
  ∀ (P : Params) (st : Straps) (n : Nat), 0 < st.clkHz.toInt → 0 < st.outHz.toInt →
    ∃ t, advanceTimes P n ⟨resetEngine P st, [], none⟩ = .next t ∧
      ∀ T : Nat, T = (n * st.clkHz.toNat + (st.outHz.toNat - 1)) / st.outHz.toNat →
        (∀ c, t.engine.tone.get c = toneStep^[T] (resetTone P.num)) ∧
        t.engine.noise = (noiseStep P)^[T] (resetNoise P) ∧
        t.engine.env = (envStep P)^[T] resetEnv ∧
        t.engine.phase + 8 * n * st.clkHz.toNat = T * (8 * st.outHz.toNat)

/-! ### Interpolator (45_interpolator.md) -/

/-- R186, R187 (D13): a push shifts the sample in and recomputes the four coefficients in the written order of operations;
an evaluation is Horner's form. -/
def Obligations.InterpPushAndEvalAsWritten : Prop :=
  ∀ (N : Numerics) (i : InterpState) (x t y0 y1 y2 y3 : Amp), i.iy.x1 = y0 → i.iy.x2 = y1 → i.iy.x3 = y2 → x = y3 →
    (interpPush N i x).iy = ⟨y0, y1, y2, y3⟩ ∧
    (interpPush N i x).ic = ⟨y1,
      N.sub (N.sub (N.sub y2 (N.divInt y0 3)) (N.divInt y1 2)) (N.divInt y3 6),
      N.sub (N.divInt (N.add y0 y2) 2) y1,
      N.add (N.divInt (N.sub y3 y0) 6) (N.divInt (N.sub y1 y2) 2)⟩ ∧
    interpEval N i t = N.add (N.mul (N.add (N.mul (N.add (N.mul i.ic.x3 t) i.ic.x2) t) i.ic.x1) t) i.ic.x0

/-- R189 (a), (b) (derived there), exact numerics: any polynomial of degree at most 3 in the tick number is reproduced
exactly at every offset after four pushes, whatever was held before; a constant is the case b = c = d = 0. -/
def Obligations.CubicReproducedExactly : Prop :=
  ∀ (i : InterpState) (a b c d k t : ℚ) (f : ℚ → ℚ), (∀ x, f x = a + b * x + c * x ^ 2 + d * x ^ 3) →
    interpEval Numerics.exact (interpPush Numerics.exact (interpPush Numerics.exact (interpPush Numerics.exact
      (interpPush Numerics.exact i (f (k - 1))) (f k)) (f (k + 1))) (f (k + 2))) t = f (k + t)

/-- R46 (e) (derived there): no command breaks `ic` being the coefficient function of `iy`, on either side; it holds after
RESET in exact numerics. -/
def Obligations.InterpCoefficientsStayDerived : Prop :=
  (∀ (i : Instr) (s t : State), s.engine.InterpDerived Config.params → exec i s = .next t →
    t.engine.InterpDerived Config.params) ∧
  ∀ (P : Params) (st : Straps), (resetEngine P.withExact st).InterpDerived P.withExact

/-! ### FIR filter (46_fir_decimator.md) -/

/-- R196, R62 (b) (layout: D24): a write keeps the two halves of the buffer alike and moves the window by one: tap 191 is
the sample just written, every other tap what the next tap was. So tap k is the sample written 192 - k writes ago. -/
def Obligations.FirWindowSlidesByOne : Prop :=
  ∀ (f : FirState) (v : Amp), f.Mirrored →
    (firWrite f v).Mirrored ∧ (firWrite f v).widx.val = (f.widx.val + 1) % 192 ∧
    (firWrite f v).tap 191 = v ∧
    ∀ k : Fin 191, (firWrite f v).tap ⟨k.val, by omega⟩ = f.tap ⟨k.val + 1, by omega⟩

/-- R199, R62 (b) (orientation and order: D35): whatever the filter held before, after 192 writes its output is the sum over
k = 0..191 in ascending order, from Amp zero, of H[k] times the k-th sample written, so that tap 0 weighs the oldest. -/
def Obligations.FirEvalWeighsTheLast192 : Prop :=
  ∀ (P : Params) (f : FirState) (samples : List Amp) (h : samples.length = 192),
    firEval P (samples.foldl firWrite f) = (List.finRange 192).foldl
      (fun acc k => P.num.add acc (P.num.mul (P.firCoef k) (samples[k.val]'(by have := k.isLt; omega)))) P.num.zero

/-- R199 example and R200 (derived there), under R7 (e), exact numerics: once 192 samples equal to c have been written the
filter's output is exactly c, and stays c however many more are written. -/
def Obligations.FirSettlesOnConstant : Prop :=
  ∀ (P : Params) (f : FirState) (c : Amp) (n : Nat), P.FirUnitGain → f.Mirrored → 192 ≤ n →
    firEval P.withExact ((fun g => firWrite g c)^[n] f) = c

/-! ### DC filter (47_dc_filter.md) -/

/-- R206 (D29): REMOVE_DC completes whenever `out_valid = 1`: each side's latch value goes through its own filter, whose
sum is updated before it is used and whose delay line keeps the unfiltered input; `fatal` is set only by a result that
is not finite; nothing else changes. -/
def Obligations.RemoveDcFiltersBothSides : Prop :=
  ∀ s : State, s.engine.out.valid = true →
    ∃ t, exec .removeDc s = .next t ∧ AnsweredOk t ∧ t.inputs = s.inputs ∧ t.engine.out.valid = true ∧
      DcFiltered Config.params.num s.engine.dc.left t.engine.dc.left s.engine.out.left t.engine.out.left ∧
      DcFiltered Config.params.num s.engine.dc.right t.engine.dc.right s.engine.out.right t.engine.out.right ∧
      t.engine.fatal = (s.engine.fatal || !(Config.params.num.isFinite t.engine.out.left &&
        Config.params.num.isFinite t.engine.out.right)) ∧
      { t.engine with dc := s.engine.dc, out := s.engine.out, fatal := s.engine.fatal } = s.engine

/-- R207 (derived there), exact numerics: from reset with the constant input c, the n-th call returns c (1024 - n) / 1024
for n up to 1024 and exactly 0 for every later one. Here the call is number n + 1. -/
def Obligations.DcConstantInputDecaysToZero : Prop :=
  ∀ (c : Amp) (n : Nat),
    dcOutput Numerics.exact ((fun d => dcPush Numerics.exact d c)^[n] (resetDc Numerics.exact)) c =
      if n + 1 ≤ 1024 then c * (1024 - ((n : ℚ) + 1)) / 1024 else 0

/-- R46 (g), R209 (derived there), exact numerics: the running sum is the sum of the delay line after RESET and after
every input. -/
def Obligations.DcRunningSumIsTheTotal : Prop :=
  (resetDc Numerics.exact).SumIsTotal ∧
  ∀ (d : DcState) (x : Amp), d.SumIsTotal → (dcPush Numerics.exact d x).SumIsTotal

/-! ### Output (48_output.md) -/

/-- R216: READ_SAMPLE completes whenever `out_valid = 1`, responds with the encoded pair, and changes no state; so the
command right after it returns the same pair. -/
def Obligations.ReadSampleReturnsThePair : Prop :=
  ∀ s : State, s.engine.out.valid = true →
    ∃ t, exec .readSample s = .next t ∧ t.engine = s.engine ∧ t.inputs = s.inputs ∧
      t.response =
        some ⟨.ok, some (Config.params.num.enc s.engine.out.left, Config.params.num.enc s.engine.out.right)⟩ ∧
      exec .readSample t = .next t

/-- R217 (derived there), three ways. Every step, whatever its input, but for a SET_PAN with unequal weights, keeps the
machine symmetric: every channel panned alike and the two sides alike. ADVANCE and REMOVE_DC do so under every parameter set.
And R217's wider condition, under every parameter set: it is enough that each channel is panned alike or has amplitude zero at
every tick (zero times either weight being the same); then the sides stay alike under ADVANCE, and under REMOVE_DC with no
condition on the channels. -/
def Obligations.LeftRightSymmetryKept : Prop :=
  (∀ s t : State, s.engine.Symmetric → (∀ i ∈ s.inputs.head?, ¬i.PansUnequally Config.params) → step s = .next t →
    t.engine.Symmetric) ∧
  (∀ (P : Params) (s t : State), s.engine.Symmetric →
    (execAdvanceWith P s = .next t ∨ execRemoveDcWith P s = .next t) → t.engine.Symmetric) ∧
  (∀ (P : Params) (s t : State), s.engine.SidesAlike →
    ((∀ c, s.engine.ContributesAlike P c) → execAdvanceWith P s = .next t → t.engine.SidesAlike) ∧
    (execRemoveDcWith P s = .next t → t.engine.SidesAlike))

/-! ### The whole machine -/

/-- R42 (derived there from R9): under the exact reference numerics `fatal` is never set. -/
def Obligations.ExactNumericsNeverFatal : Prop :=
  ∀ (P : Params) (s t : State), s.engine.fatal = false →
    (execAdvanceWith P.withExact s = .next t ∨ execRemoveDcWith P.withExact s = .next t) → t.engine.fatal = false

/-- R46 (a), (b), (d), (f), (g), (h), with R21, R30, R42: every step keeps the invariant, from every state that has it. -/
def Obligations.StepKeepsInvariant : Prop :=
  ∀ s t : State, s.Inv → step s = .next t → t.Inv

/-- R255: every sequence of inputs has a defined outcome: from every state with the invariant, any number of steps ends in a
next state, never in a fault or a refusal. -/
def Obligations.EverySequenceHasAnOutcome : Prop :=
  ∀ (s : State) (n : Nat), s.Inv → ∃ t, Sys2Proof.core.run n s = .next t
end

