-- ==== Sys2Proof/Laws/State.lean ====
section
/-! SUPPORT. One lemma per field per named update of the state, true by rfl, so that no later proof unfolds a record update:
channels and sides, `setTone`, the branches of ADVANCE's loop, the output latch, RESET, the input list. -/

namespace Sys2Proof.Machine

/-! ### Channels and sides -/

@[simp] theorem Channels.get_A {α : Type} (x : Channels α) : x.get .A = x.a := rfl
@[simp] theorem Channels.get_B {α : Type} (x : Channels α) : x.get .B = x.b := rfl
@[simp] theorem Channels.get_C {α : Type} (x : Channels α) : x.get .C = x.c := rfl

@[simp] theorem Channels.get_set_same {α : Type} (x : Channels α) (c : Channel) (v : α) : (x.set c v).get c = v := by
  cases c <;> rfl

@[simp] theorem Channels.get_set_other {α : Type} (x : Channels α) {c c' : Channel} (h : c' ≠ c) (v : α) :
    (x.set c v).get c' = x.get c' := by
  cases c <;> cases c' <;> first | rfl | exact absurd rfl h

@[simp] theorem Channels.get_map {α β : Type} (f : α → β) (x : Channels α) (c : Channel) :
    (x.map f).get c = f (x.get c) := by
  cases c <;> rfl

@[simp] theorem Channels.map_a {α β : Type} (f : α → β) (x : Channels α) : (x.map f).a = f x.a := rfl
@[simp] theorem Channels.map_b {α β : Type} (f : α → β) (x : Channels α) : (x.map f).b = f x.b := rfl
@[simp] theorem Channels.map_c {α β : Type} (f : α → β) (x : Channels α) : (x.map f).c = f x.c := rfl

/-- Channels are equal when they are equal channel by channel. -/
theorem Channels.eq_of_get {α : Type} {x y : Channels α} (h : ∀ c, x.get c = y.get c) : x = y := by
  cases x; cases y
  have ha := h .A; have hb := h .B; have hc := h .C
  simp only [Channels.get] at ha hb hc
  rw [ha, hb, hc]

@[simp] theorem Sides.get_L {α : Type} (x : Sides α) : x.get .L = x.left := rfl
@[simp] theorem Sides.get_R {α : Type} (x : Sides α) : x.get .R = x.right := rfl

/-! ### Writing one channel -/

@[simp] theorem Engine.setTone_tone (e : Engine) (c : Channel) (t : ToneChannel) :
    (e.setTone c t).tone = e.tone.set c t := rfl
@[simp] theorem Engine.setTone_config (e : Engine) (c : Channel) (t : ToneChannel) :
    (e.setTone c t).config = e.config := rfl
@[simp] theorem Engine.setTone_noise (e : Engine) (c : Channel) (t : ToneChannel) :
    (e.setTone c t).noise = e.noise := rfl
@[simp] theorem Engine.setTone_env (e : Engine) (c : Channel) (t : ToneChannel) : (e.setTone c t).env = e.env := rfl
@[simp] theorem Engine.setTone_phase (e : Engine) (c : Channel) (t : ToneChannel) :
    (e.setTone c t).phase = e.phase := rfl
@[simp] theorem Engine.setTone_interp (e : Engine) (c : Channel) (t : ToneChannel) :
    (e.setTone c t).interp = e.interp := rfl
@[simp] theorem Engine.setTone_fir (e : Engine) (c : Channel) (t : ToneChannel) : (e.setTone c t).fir = e.fir := rfl
@[simp] theorem Engine.setTone_dc (e : Engine) (c : Channel) (t : ToneChannel) : (e.setTone c t).dc = e.dc := rfl
@[simp] theorem Engine.setTone_out (e : Engine) (c : Channel) (t : ToneChannel) : (e.setTone c t).out = e.out := rfl
@[simp] theorem Engine.setTone_fatal (e : Engine) (c : Channel) (t : ToneChannel) :
    (e.setTone c t).fatal = e.fatal := rfl

/-! ### The generators' steps -/

@[simp] theorem stepGenerators_tone (P : Params) (e : Engine) : (stepGenerators P e).tone = e.tone.map toneStep := rfl
@[simp] theorem stepGenerators_noise (P : Params) (e : Engine) : (stepGenerators P e).noise = noiseStep P e.noise := rfl
@[simp] theorem stepGenerators_env (P : Params) (e : Engine) : (stepGenerators P e).env = envStep P e.env := rfl
@[simp] theorem stepGenerators_interp (P : Params) (e : Engine) : (stepGenerators P e).interp = e.interp := rfl
@[simp] theorem stepGenerators_config (P : Params) (e : Engine) : (stepGenerators P e).config = e.config := rfl

/-! ### The branches of ADVANCE's loop -/

@[simp] theorem loopTick_config (P : Params) (e : Engine) : (loopTick P e).config = e.config := rfl
@[simp] theorem loopTick_tone (P : Params) (e : Engine) : (loopTick P e).tone = e.tone.map toneStep := rfl
@[simp] theorem loopTick_noise (P : Params) (e : Engine) : (loopTick P e).noise = noiseStep P e.noise := rfl
@[simp] theorem loopTick_env (P : Params) (e : Engine) : (loopTick P e).env = envStep P e.env := rfl
@[simp] theorem loopTick_phase (P : Params) (e : Engine) : (loopTick P e).phase = e.phase + e.config.inc := rfl
@[simp] theorem loopTick_interp (P : Params) (e : Engine) :
    (loopTick P e).interp =
      ⟨interpPush P.num e.interp.left (rawSample P (stepGenerators P e)).left,
       interpPush P.num e.interp.right (rawSample P (stepGenerators P e)).right⟩ := rfl
@[simp] theorem loopTick_fir (P : Params) (e : Engine) : (loopTick P e).fir = e.fir := rfl
@[simp] theorem loopTick_dc (P : Params) (e : Engine) : (loopTick P e).dc = e.dc := rfl
@[simp] theorem loopTick_out (P : Params) (e : Engine) : (loopTick P e).out = e.out := rfl
@[simp] theorem loopTick_fatal (P : Params) (e : Engine) : (loopTick P e).fatal = e.fatal := rfl

@[simp] theorem loopEmit_config (P : Params) (e : Engine) : (loopEmit P e).config = e.config := rfl
@[simp] theorem loopEmit_tone (P : Params) (e : Engine) : (loopEmit P e).tone = e.tone := rfl
@[simp] theorem loopEmit_noise (P : Params) (e : Engine) : (loopEmit P e).noise = e.noise := rfl
@[simp] theorem loopEmit_env (P : Params) (e : Engine) : (loopEmit P e).env = e.env := rfl
@[simp] theorem loopEmit_phase (P : Params) (e : Engine) : (loopEmit P e).phase = e.phase - e.config.mod := rfl
@[simp] theorem loopEmit_interp (P : Params) (e : Engine) : (loopEmit P e).interp = e.interp := rfl
@[simp] theorem loopEmit_fir_left (P : Params) (e : Engine) :
    (loopEmit P e).fir.left =
      firWrite e.fir.left (interpEval P.num e.interp.left
        (P.num.ofRat (emitOffset e.config (e.phase - e.config.mod)))) := rfl
@[simp] theorem loopEmit_fir_right (P : Params) (e : Engine) :
    (loopEmit P e).fir.right =
      firWrite e.fir.right (interpEval P.num e.interp.right
        (P.num.ofRat (emitOffset e.config (e.phase - e.config.mod)))) := rfl
@[simp] theorem loopEmit_dc (P : Params) (e : Engine) : (loopEmit P e).dc = e.dc := rfl
@[simp] theorem loopEmit_out (P : Params) (e : Engine) : (loopEmit P e).out = e.out := rfl
@[simp] theorem loopEmit_fatal (P : Params) (e : Engine) : (loopEmit P e).fatal = e.fatal := rfl

/-! ### The output latch -/

@[simp] theorem latchPair_config (N : Numerics) (l r : Amp) (e : Engine) : (latchPair N l r e).config = e.config := rfl
@[simp] theorem latchPair_tone (N : Numerics) (l r : Amp) (e : Engine) : (latchPair N l r e).tone = e.tone := rfl
@[simp] theorem latchPair_noise (N : Numerics) (l r : Amp) (e : Engine) : (latchPair N l r e).noise = e.noise := rfl
@[simp] theorem latchPair_env (N : Numerics) (l r : Amp) (e : Engine) : (latchPair N l r e).env = e.env := rfl
@[simp] theorem latchPair_phase (N : Numerics) (l r : Amp) (e : Engine) : (latchPair N l r e).phase = e.phase := rfl
@[simp] theorem latchPair_interp (N : Numerics) (l r : Amp) (e : Engine) : (latchPair N l r e).interp = e.interp := rfl
@[simp] theorem latchPair_fir (N : Numerics) (l r : Amp) (e : Engine) : (latchPair N l r e).fir = e.fir := rfl
@[simp] theorem latchPair_dc (N : Numerics) (l r : Amp) (e : Engine) : (latchPair N l r e).dc = e.dc := rfl
@[simp] theorem latchPair_left (N : Numerics) (l r : Amp) (e : Engine) : (latchPair N l r e).out.left = l := rfl
@[simp] theorem latchPair_right (N : Numerics) (l r : Amp) (e : Engine) : (latchPair N l r e).out.right = r := rfl
@[simp] theorem latchPair_valid (N : Numerics) (l r : Amp) (e : Engine) :
    (latchPair N l r e).out.valid = e.out.valid := rfl
@[simp] theorem latchPair_fatal (N : Numerics) (l r : Amp) (e : Engine) :
    (latchPair N l r e).fatal = (e.fatal || !pairFinite N l r) := rfl

@[simp] theorem latchFir_config (P : Params) (e : Engine) : (latchFir P e).config = e.config := rfl
@[simp] theorem latchFir_tone (P : Params) (e : Engine) : (latchFir P e).tone = e.tone := rfl
@[simp] theorem latchFir_noise (P : Params) (e : Engine) : (latchFir P e).noise = e.noise := rfl
@[simp] theorem latchFir_env (P : Params) (e : Engine) : (latchFir P e).env = e.env := rfl
@[simp] theorem latchFir_phase (P : Params) (e : Engine) : (latchFir P e).phase = e.phase := rfl
@[simp] theorem latchFir_interp (P : Params) (e : Engine) : (latchFir P e).interp = e.interp := rfl
@[simp] theorem latchFir_fir (P : Params) (e : Engine) : (latchFir P e).fir = e.fir := rfl
@[simp] theorem latchFir_dc (P : Params) (e : Engine) : (latchFir P e).dc = e.dc := rfl
@[simp] theorem latchFir_left (P : Params) (e : Engine) : (latchFir P e).out.left = firEval P e.fir.left := rfl
@[simp] theorem latchFir_right (P : Params) (e : Engine) : (latchFir P e).out.right = firEval P e.fir.right := rfl
@[simp] theorem latchFir_valid (P : Params) (e : Engine) : (latchFir P e).out.valid = true := rfl
@[simp] theorem latchFir_fatal (P : Params) (e : Engine) :
    (latchFir P e).fatal = (e.fatal || !pairFinite P.num (firEval P e.fir.left) (firEval P e.fir.right)) := rfl

/-! ### The DC filter on the latch -/

@[simp] theorem filterOutput_config (N : Numerics) (e : Engine) : (filterOutput N e).config = e.config := rfl
@[simp] theorem filterOutput_tone (N : Numerics) (e : Engine) : (filterOutput N e).tone = e.tone := rfl
@[simp] theorem filterOutput_noise (N : Numerics) (e : Engine) : (filterOutput N e).noise = e.noise := rfl
@[simp] theorem filterOutput_env (N : Numerics) (e : Engine) : (filterOutput N e).env = e.env := rfl
@[simp] theorem filterOutput_phase (N : Numerics) (e : Engine) : (filterOutput N e).phase = e.phase := rfl
@[simp] theorem filterOutput_interp (N : Numerics) (e : Engine) : (filterOutput N e).interp = e.interp := rfl
@[simp] theorem filterOutput_fir (N : Numerics) (e : Engine) : (filterOutput N e).fir = e.fir := rfl
@[simp] theorem filterOutput_dc (N : Numerics) (e : Engine) :
    (filterOutput N e).dc = ⟨dcPush N e.dc.left e.out.left, dcPush N e.dc.right e.out.right⟩ := rfl
@[simp] theorem filterOutput_left (N : Numerics) (e : Engine) :
    (filterOutput N e).out.left = dcOutput N e.dc.left e.out.left := rfl
@[simp] theorem filterOutput_right (N : Numerics) (e : Engine) :
    (filterOutput N e).out.right = dcOutput N e.dc.right e.out.right := rfl
@[simp] theorem filterOutput_valid (N : Numerics) (e : Engine) : (filterOutput N e).out.valid = e.out.valid := rfl
@[simp] theorem filterOutput_fatal (N : Numerics) (e : Engine) :
    (filterOutput N e).fatal =
      (e.fatal || !pairFinite N (dcOutput N e.dc.left e.out.left) (dcOutput N e.dc.right e.out.right)) := rfl

/-! ### RESET and the input list -/

@[simp] theorem resetEngine_config (P : Params) (st : Straps) : (resetEngine P st).config = resetConfig st := rfl
@[simp] theorem resetEngine_noise (P : Params) (st : Straps) : (resetEngine P st).noise = resetNoise P := rfl
@[simp] theorem resetEngine_env (P : Params) (st : Straps) : (resetEngine P st).env = resetEnv := rfl
@[simp] theorem resetEngine_phase (P : Params) (st : Straps) : (resetEngine P st).phase = 0 := rfl
@[simp] theorem resetEngine_valid (P : Params) (st : Straps) : (resetEngine P st).out.valid = false := rfl
@[simp] theorem resetEngine_fatal (P : Params) (st : Straps) : (resetEngine P st).fatal = false := rfl
@[simp] theorem resetEngine_tone (P : Params) (st : Straps) (c : Channel) :
    (resetEngine P st).tone.get c = resetTone P.num := by
  cases c <;> rfl

@[simp] theorem applyReset_engine (st : Straps) (s : State) :
    (applyReset st s).engine = resetEngine Config.params st := rfl
@[simp] theorem applyReset_inputs (st : Straps) (s : State) : (applyReset st s).inputs = s.inputs := rfl
@[simp] theorem applyReset_response (st : Straps) (s : State) : (applyReset st s).response = none := rfl

@[simp] theorem presentWord_inputs (w : CommandWord) (s : State) :
    (presentWord w s).inputs = .command w :: s.inputs := rfl
@[simp] theorem presentWord_engine (w : CommandWord) (s : State) : (presentWord w s).engine = s.engine := rfl
@[simp] theorem presentWord_response (w : CommandWord) (s : State) : (presentWord w s).response = s.response := rfl

end Sys2Proof.Machine
end

