-- ==== Sys2Proof/Laws/Ops.lean ====
section
/-! SUPPORT. What each shared operation can do, said once: answering and raising, the operand checks, the internal arrays,
ADVANCE's loop, admission. A proof cites these and does not unfold the operation. -/

namespace Sys2Proof.Machine

/-! ### Answering -/

/-- `answer` always gives a next state, and this one. -/
theorem answer_eq (st : Status) (d : Option (Sample × Sample)) (e : Engine) (s : State) :
    answer st d e s = .next { s with engine := e, response := some ⟨st, d⟩ } := rfl

/-- `accept` always gives a next state, and this one. -/
theorem accept_eq (e : Engine) (s : State) :
    accept e s = .next { s with engine := e, response := some ⟨.ok, none⟩ } := rfl

/-- `raise` always gives a next state that differs from `s` in the response alone. -/
theorem raise_eq (err : Status) (s : State) : raise err s = .next { s with response := some ⟨err, none⟩ } := rfl

/-! ### Operand checks -/

/-- A channel check that answers a next state has rejected CH = 3 or run the command on a channel. -/
theorem withChannel_next {ch : ChannelField} {s t : State} {k : Channel → Result}
    (h : withChannel ch s k = .next t) :
    (ch = none ∧ t = { s with response := some ⟨.outOfRange, none⟩ }) ∨ ∃ c, ch = some c ∧ k c = .next t := by
  cases ch with
  | none =>
    refine .inl ⟨rfl, ?_⟩
    simp only [withChannel, raise_eq, Host.Outcome.next.injEq] at h
    exact h.symm
  | some c => exact .inr ⟨c, rfl, h⟩

theorem inRange_iff (top : Nat) (n : Int) : inRange top n = true ↔ 0 ≤ n ∧ n ≤ (top : Int) := by
  simp [inRange]

/-- In range, the command runs. -/
theorem withRange_of_mem {top : Nat} {n : Int} (h0 : 0 ≤ n) (h1 : n ≤ (top : Int)) (s : State) (k : Result) :
    withRange top n s k = k := by
  rw [withRange, if_pos ((inRange_iff top n).2 ⟨h0, h1⟩)]

/-- Out of range, OutOfRange is raised. -/
theorem withRange_of_not_mem {top : Nat} {n : Int} (h : ¬(0 ≤ n ∧ n ≤ (top : Int))) (s : State) (k : Result) :
    withRange top n s k = raise .outOfRange s := by
  rw [withRange, if_neg (fun hr => h ((inRange_iff top n).1 hr))]

/-- A range check that answers a next state has rejected the operand or run the command. -/
theorem withRange_next {top : Nat} {n : Int} {s t : State} {k : Result} (h : withRange top n s k = .next t) :
    (¬(0 ≤ n ∧ n ≤ (top : Int)) ∧ t = { s with response := some ⟨.outOfRange, none⟩ }) ∨
    ((0 ≤ n ∧ n ≤ (top : Int)) ∧ k = .next t) := by
  by_cases hr : 0 ≤ n ∧ n ≤ (top : Int)
  · exact .inr ⟨hr, by rwa [withRange_of_mem hr.1 hr.2] at h⟩
  · refine .inl ⟨hr, ?_⟩
    rw [withRange_of_not_mem hr, raise_eq, Host.Outcome.next.injEq] at h
    exact h.symm

/-- A validity check that answers a next state has rejected the command or run it. -/
theorem withValid_next {s t : State} {k : Result} (h : withValid s k = .next t) :
    (s.engine.out.valid = false ∧ t = { s with response := some ⟨.notValid, none⟩ }) ∨
    (s.engine.out.valid = true ∧ k = .next t) := by
  cases hv : s.engine.out.valid with
  | false =>
    refine .inl ⟨rfl, ?_⟩
    simp only [withValid, hv, raise_eq] at h
    injection h with h
    exact h.symm
  | true =>
    refine .inr ⟨rfl, ?_⟩
    simpa only [withValid, hv, if_true] using h

/-- The clamped pan value lies in [0, 1]. -/
theorem panOf_mem (raw : Int) : 0 ≤ panOf raw ∧ panOf raw ≤ 1 := by
  unfold panOf clampUnit
  split
  · norm_num
  · split
    · norm_num
    · rename_i h0 h1
      exact ⟨not_lt.1 h0, not_lt.1 h1⟩

/-- R7 (g) with R6's range: SQRT is the non-negative root at every exact square of [0, 1]. -/
theorem sqrt_square {P : Params} (hr : P.SqrtInUnit) (hl : P.SqrtLaws) {y : Amp} (h0 : 0 ≤ y) (h1 : y ≤ 1) :
    P.sqrt (y * y) = y :=
  have hmem := hr (y * y) (mul_nonneg h0 h0) (mul_le_one₀ h1 h0 h1)
  (mul_self_inj hmem.1 h0).1 (hl.2.2 y h0 h1)

/-! ### The internal arrays -/

@[simp] theorem FirState.write_widx (f : FirState) (v : Amp) : (f.write v).widx.val = (f.widx.val + 1) % 192 := rfl

/-- An element of the buffer after a write: the value written at the two places of the index, else as before. -/
theorem FirState.write_buf (f : FirState) (v : Amp) (i : Nat) (hi : i < 384) :
    (f.write v).buf[i] = if i = f.widx.val ∨ i = f.widx.val + 192 then v else f.buf[i] := by
  unfold FirState.write
  simp only [Vector.getElem_set]
  by_cases h1 : f.widx.val + 192 = i
  · simp [h1]
  · by_cases h2 : f.widx.val = i
    · simp [h2]
    · simp [h1, h2, Ne.symm h1, Ne.symm h2]

@[simp] theorem DcState.slide_widx (d : DcState) (x m : Amp) : (d.slide x m).widx.val = (d.widx.val + 1) % 1024 := rfl
@[simp] theorem DcState.slide_sum (d : DcState) (x m : Amp) : (d.slide x m).sum = m := rfl

/-- An element of the delay line after a slide: the input at the index, else as before. -/
theorem DcState.slide_delay (d : DcState) (x m : Amp) (i : Nat) (hi : i < 1024) :
    (d.slide x m).delay[i] = if i = d.widx.val then x else d.delay[i] := by
  unfold DcState.slide
  simp only [Vector.getElem_set]
  by_cases h : d.widx.val = i
  · simp [h]
  · simp [h, Ne.symm h]

/-! ### ADVANCE's loop -/

/-- The loop ends only with eight emissions done, and a property of (emissions, engine) that both branches keep holds
then. Packages the loop's induction. -/
theorem advanceLoop_keeps {P : Params} {Q : Nat → Engine → Prop}
    (tick : ∀ m e, m < 8 → e.phase < e.config.mod → Q m e → Q m (loopTick P e))
    (emit : ∀ m e, m < 8 → e.config.mod ≤ e.phase → Q m e → Q (m + 1) (loopEmit P e)) :
    ∀ fuel m e e', m ≤ 8 → Q m e → advanceLoop P fuel m e = some e' → Q 8 e' := by
  intro fuel
  induction fuel with
  | zero => intro m e e' _ _ h; simp [advanceLoop] at h
  | succ n ih =>
    intro m e e' hm hq h
    rw [advanceLoop] at h
    by_cases hlt : m < Config.oversample
    · rw [if_pos hlt] at h
      by_cases hp : e.config.mod ≤ e.phase
      · rw [if_pos hp] at h
        exact ih (m + 1) _ e' hlt (emit m e hlt hp hq) h
      · rw [if_neg hp] at h
        exact ih m _ e' hm (tick m e hlt (Nat.lt_of_not_le hp) hq) h
    · rw [if_neg hlt, Option.some.injEq] at h
      have h8 : m = 8 := Nat.le_antisymm hm (Nat.le_of_not_lt hlt)
      rw [← h8, ← h]
      exact hq

/-- What ADVANCE can do: the loop ends and the results are latched, or it has not ended. -/
theorem execAdvanceWith_cases (P : Params) (s : State) :
    (∃ e, advanceLoop P (advanceFuel s.engine.config) 0 s.engine = some e ∧
      execAdvanceWith P s = .next { s with engine := latchFir P e, response := some ⟨.ok, none⟩ }) ∨
    (advanceLoop P (advanceFuel s.engine.config) 0 s.engine = none ∧
      execAdvanceWith P s = .fault .advanceNeverEnds) := by
  unfold execAdvanceWith
  cases h : advanceLoop P (advanceFuel s.engine.config) 0 s.engine with
  | some e => exact .inl ⟨e, rfl, rfl⟩
  | none => exact .inr ⟨rfl, rfl⟩

/-! ### Admission and the step -/

/-- An engine that admits commands has a valid configuration and is not fatal. -/
theorem admissionError_none_iff (e : Engine) : admissionError e = none ↔ e.config.cfgOk = true ∧ e.fatal = false := by
  unfold admissionError
  cases e.config.cfgOk <;> cases e.fatal <;> simp

/-- What a step can do, by the input it finds. -/
theorem step_cases (s : State) :
    (s.inputs = [] ∧ step s = .next s) ∨
    (∃ st rest, s.inputs = .reset st :: rest ∧ step s = .next (applyReset st { s with inputs := rest })) ∨
    (∃ w rest, s.inputs = .command w :: rest ∧ step s = executeWord w { s with inputs := rest }) := by
  obtain ⟨e, ins, r⟩ := s
  cases ins with
  | nil => exact .inl ⟨rfl, rfl⟩
  | cons i rest =>
    cases i with
    | command w => exact .inr (.inr ⟨w, rest, rfl, rfl⟩)
    | reset st => exact .inr (.inl ⟨st, rest, rfl, rfl⟩)

/-- What executing a word can do: an error that changes the response alone, or the decoded command's rule. -/
theorem executeWord_cases (w : CommandWord) (s : State) :
    (∃ err, (err = .invalidConfig ∨ err = .fatal ∨ err = .illegalCommand) ∧
      executeWord w s = .next { s with response := some ⟨err, none⟩ }) ∨
    (∃ i, s.engine.config.cfgOk = true ∧ s.engine.fatal = false ∧ decode w = .ok i ∧ executeWord w s = exec i s) := by
  unfold executeWord
  cases ha : admissionError s.engine with
  | some err =>
    refine .inl ⟨err, ?_, rfl⟩
    unfold admissionError at ha
    split at ha
    · split at ha
      · exact .inr (.inl (Option.some.inj ha).symm)
      · exact absurd ha (by simp)
    · exact .inl (Option.some.inj ha).symm
  | none =>
    obtain ⟨hc, hf⟩ := (admissionError_none_iff _).1 ha
    cases hd : decode w with
    | error r => exact .inl ⟨.illegalCommand, .inr (.inr rfl), rfl⟩
    | ok i => exact .inr ⟨i, hc, hf, rfl, rfl⟩

end Sys2Proof.Machine
end

