-- ==== Sys2Proof/Laws/PerInstr.lean ====
section
/-! SUPPORT. Statements made of every instruction, one lemma per constructor. `EncodedOpcode`: the encoded word carries the
instruction's OP and a zero RSV field (30_encoding.md R80, R83, R84). Before it, the fields of a word built from fields. -/

namespace Sys2Proof

/-! ### The fields of `wordOf` -/

/-- Bit `i` of a word built from fields: which field holds it, and where. -/
theorem getLsbD_wordOf (op : BitVec 4) (ch : BitVec 2) (f : BitVec 1) (arg : BitVec 32) (i : Nat) :
    (wordOf op ch f arg).getLsbD i =
      if i < 32 then arg.getLsbD i
      else if i < 33 then f.getLsbD (i - 32)
      else if i < 58 then false
      else if i < 60 then ch.getLsbD (i - 58)
      else op.getLsbD (i - 60) := by
  rw [wordOf, BitVec.getLsbD_cast]
  simp only [BitVec.getLsbD_append, BitVec.getLsbD_zero]
  split_ifs <;> first | rfl | omega

@[simp] theorem fieldOP_wordOf (op : BitVec 4) (ch : BitVec 2) (f : BitVec 1) (arg : BitVec 32) :
    fieldOP (wordOf op ch f arg) = op := by
  apply BitVec.eq_of_getLsbD_eq
  intro i hi
  rw [fieldOP, BitVec.getLsbD_extractLsb', getLsbD_wordOf]
  simp only [hi, decide_true, Bool.true_and]
  split_ifs <;> first | omega | (congr 1; omega)

@[simp] theorem fieldCH_wordOf (op : BitVec 4) (ch : BitVec 2) (f : BitVec 1) (arg : BitVec 32) :
    fieldCH (wordOf op ch f arg) = ch := by
  apply BitVec.eq_of_getLsbD_eq
  intro i hi
  rw [fieldCH, BitVec.getLsbD_extractLsb', getLsbD_wordOf]
  simp only [hi, decide_true, Bool.true_and]
  split_ifs <;> first | omega | (congr 1; omega)

@[simp] theorem fieldRSV_wordOf (op : BitVec 4) (ch : BitVec 2) (f : BitVec 1) (arg : BitVec 32) :
    fieldRSV (wordOf op ch f arg) = 0#25 := by
  apply BitVec.eq_of_getLsbD_eq
  intro i hi
  rw [fieldRSV, BitVec.getLsbD_extractLsb', getLsbD_wordOf, BitVec.getLsbD_zero]
  split_ifs <;> first | omega | simp

@[simp] theorem fieldF_wordOf (op : BitVec 4) (ch : BitVec 2) (f : BitVec 1) (arg : BitVec 32) :
    fieldF (wordOf op ch f arg) = f := by
  apply BitVec.eq_of_getLsbD_eq
  intro i hi
  rw [fieldF, BitVec.getLsbD_extractLsb', getLsbD_wordOf]
  simp only [hi, decide_true, Bool.true_and]
  split_ifs <;> first | omega | (congr 1; omega)

@[simp] theorem fieldARG_wordOf (op : BitVec 4) (ch : BitVec 2) (f : BitVec 1) (arg : BitVec 32) :
    fieldARG (wordOf op ch f arg) = arg := by
  apply BitVec.eq_of_getLsbD_eq
  intro i hi
  rw [fieldARG, BitVec.getLsbD_extractLsb', getLsbD_wordOf]
  simp only [hi, decide_true, Bool.true_and]
  split_ifs <;> first | omega | (congr 1; omega)

@[simp] theorem channelOf_channelBits (ch : ChannelField) : channelOf (channelBits ch) = ch := by
  rcases ch with _ | c
  · rfl
  · cases c <;> rfl

@[simp] theorem channelBits_channelOf (ch : BitVec 2) : channelBits (channelOf ch) = ch := by
  revert ch
  decide

theorem fitsArg_iff (n : Int) : fitsArg n = true ↔ -2147483648 ≤ n ∧ n ≤ 2147483647 := by
  simp only [fitsArg, Bool.and_eq_true, decide_eq_true_eq]

/-- An operand that fits its field is read back from it. -/
theorem s32_argBits {n : Int} (h : fitsArg n = true) : s32 (argBits n) = n := by
  rw [fitsArg_iff] at h
  rw [s32, argBits, BitVec.toInt_ofInt, Int.bmod_def]
  split <;> omega

/-- A field read as an integer is written back as it was. -/
@[simp] theorem argBits_s32 (v : BitVec 32) : argBits (s32 v) = v := by
  rw [s32, argBits, BitVec.ofInt_toInt]

/-- What is read from a field fits the field. -/
theorem fitsArg_s32 (v : BitVec 32) : fitsArg (s32 v) = true := by
  have h1 := BitVec.le_toInt v
  have h2 := BitVec.toInt_lt (x := v)
  norm_num at h1 h2
  rw [fitsArg_iff, s32]
  omega

/-! ### EncodedOpcode -/

/-- The word of an instruction carries its OP in CW[63:60] and 0 in CW[57:33]. -/
def Laws.EncodedOpcode.Statement (i : Instr) : Prop :=
  fieldOP (encode i) = BitVec.ofNat 4 i.opcode ∧ fieldRSV (encode i) = 0#25

theorem Laws.EncodedOpcode.setTonePeriod (ch : ChannelField) (n : Int) :
    Laws.EncodedOpcode.Statement (.setTonePeriod ch n) :=
  ⟨fieldOP_wordOf _ _ _ _, fieldRSV_wordOf _ _ _ _⟩

theorem Laws.EncodedOpcode.setPan (ch : ChannelField) (equalPower : Bool) (raw : Int) :
    Laws.EncodedOpcode.Statement (.setPan ch equalPower raw) :=
  ⟨fieldOP_wordOf _ _ _ _, fieldRSV_wordOf _ _ _ _⟩

theorem Laws.EncodedOpcode.setVolume (ch : ChannelField) (n : Int) :
    Laws.EncodedOpcode.Statement (.setVolume ch n) :=
  ⟨fieldOP_wordOf _ _ _ _, fieldRSV_wordOf _ _ _ _⟩

theorem Laws.EncodedOpcode.setMixer (ch : ChannelField) (toneEnabled noiseEnabled envelopeEnabled : Bool) :
    Laws.EncodedOpcode.Statement (.setMixer ch toneEnabled noiseEnabled envelopeEnabled) :=
  ⟨fieldOP_wordOf _ _ _ _, fieldRSV_wordOf _ _ _ _⟩

theorem Laws.EncodedOpcode.setNoisePeriod (n : Int) : Laws.EncodedOpcode.Statement (.setNoisePeriod n) :=
  ⟨fieldOP_wordOf _ _ _ _, fieldRSV_wordOf _ _ _ _⟩

theorem Laws.EncodedOpcode.setEnvPeriod (n : Int) : Laws.EncodedOpcode.Statement (.setEnvPeriod n) :=
  ⟨fieldOP_wordOf _ _ _ _, fieldRSV_wordOf _ _ _ _⟩

theorem Laws.EncodedOpcode.setEnvShape (n : Int) : Laws.EncodedOpcode.Statement (.setEnvShape n) :=
  ⟨fieldOP_wordOf _ _ _ _, fieldRSV_wordOf _ _ _ _⟩

theorem Laws.EncodedOpcode.advance : Laws.EncodedOpcode.Statement .advance :=
  ⟨fieldOP_wordOf _ _ _ _, fieldRSV_wordOf _ _ _ _⟩

theorem Laws.EncodedOpcode.removeDc : Laws.EncodedOpcode.Statement .removeDc :=
  ⟨fieldOP_wordOf _ _ _ _, fieldRSV_wordOf _ _ _ _⟩

theorem Laws.EncodedOpcode.readSample : Laws.EncodedOpcode.Statement .readSample :=
  ⟨fieldOP_wordOf _ _ _ _, fieldRSV_wordOf _ _ _ _⟩

end Sys2Proof
end

