-- ==== Sys2Proof/Tests/Slice0.lean ====
section
/-! SUPPORT. The model's own tests, each against a word or a number the spec writes out (95_test_vectors.md names them V-… and
P1 to P4), on the synthetic parameters PT of its section 0; then one witness for the hypotheses of every statement that has
any. -/

namespace Sys2Proof.Tests

open Sys2Proof Sys2Proof.Machine

/-! ### The test instantiation PT (95_test_vectors.md section 0) -/

/-- PT's LFSR_NEXT, the candidate of 93_implementation_defined.md U3. -/
def ptNext (x : BitVec 17) : BitVec 17 := (x >>> 1) ||| (((x ^^^ (x >>> 3)) &&& 1#17) <<< 16)

/-- PT's DAC tables. -/
def ptDac : Variant → Fin 32 → Amp
  | .AY => fun i => (i.val : ℚ) / 31
  | .YM => fun i => (i.val : ℚ) ^ 2 / 961

/-- PT: a test fixture, not a claim about the chip. Its square root is right at 0 and 1, where alone it is used. -/
def PT : Params where
  num := Numerics.exact
  dacTable := ptDac
  firCoef := fun _ => 1 / 192
  lfsrWidth := 17
  lfsrNext := ptNext
  lfsrOut := fun x => x.getLsbD 0
  noiseSeed := 1#17
  envFlags := Config.defaultEnvFlags
  sqrt := fun x => x

/-- The engine PT gives after RESET with the rates given. -/
def ptReset (v : Variant) (clk out : BitVec 32) : State := ⟨resetEngine PT ⟨v, clk, out⟩, [], none⟩

/-- The next state of a result, if it is one. -/
def nextOf : Result → Option State
  | .next t => some t
  | .fault _ => none
  | .refused _ => none

/-- The response of a result's next state. -/
def responseOf (r : Result) : Option Response := (nextOf r).bind State.response

/-- `s` with its output latch holding a pair, as V-DC pokes it. -/
def withOut (s : State) (l r : Amp) : State := { s with engine := { s.engine with out := ⟨l, r, true⟩ } }

/-- `s` with one command word presented. -/
def presenting (w : CommandWord) (s : State) : State := { s with inputs := [.command w] }

/-- `s` with the fatal flag poked, as V-ERR-1 does. -/
def poisoned (s : State) : State := { s with engine := { s.engine with fatal := true } }

/-! ### WellFormed: an ill-formed term for each check -/

theorem test_wf_refuses_tone_period : (Instr.setTonePeriod (some .A) 2147483648).wellFormed = false := by decide
theorem test_wf_refuses_pan : (Instr.setPan (some .B) true (-2147483649)).wellFormed = false := by decide
theorem test_wf_refuses_volume : (Instr.setVolume none 2147483648).wellFormed = false := by decide
theorem test_wf_refuses_noise_period : (Instr.setNoisePeriod (-2147483649)).wellFormed = false := by decide
theorem test_wf_refuses_env_period : (Instr.setEnvPeriod 4294967296).wellFormed = false := by decide
theorem test_wf_refuses_env_shape : (Instr.setEnvShape (-2147483649)).wellFormed = false := by decide
theorem test_wf_takes_extremes :
    (Instr.setVolume none 2147483647).wellFormed = true ∧ (Instr.setEnvShape (-2147483648)).wellFormed = true := by
  decide

/-! ### Decoding: words of V-ENC -/

theorem test_decode_set_tone_period :
    decode 0x10000000000001B8#64 = .ok (.setTonePeriod (some .A) 440) ∧
    decode 0x140000000000FFFF#64 = .ok (.setTonePeriod (some .B) 65535) ∧
    decode 0x10000000FFFFFFFF#64 = .ok (.setTonePeriod (some .A) (-1)) ∧
    decode 0x1C00000000000001#64 = .ok (.setTonePeriod none 1) := by decide
theorem test_decode_set_pan :
    decode 0x2000000000004000#64 = .ok (.setPan (some .A) false 16384) ∧
    decode 0x2400000100010000#64 = .ok (.setPan (some .B) true 65536) ∧
    decode 0x20000000FFFF8000#64 = .ok (.setPan (some .A) false (-32768)) := by decide
theorem test_decode_set_volume : decode 0x300000000000000F#64 = .ok (.setVolume (some .A) 15) := by decide
theorem test_decode_set_mixer :
    decode 0x4000000000000001#64 = .ok (.setMixer (some .A) true false false) ∧
    decode 0x4400000000000006#64 = .ok (.setMixer (some .B) false true true) ∧
    decode 0x4800000000000007#64 = .ok (.setMixer (some .C) true true true) := by decide
theorem test_decode_set_noise_period : decode 0x500000000000001F#64 = .ok (.setNoisePeriod 31) := by decide
theorem test_decode_set_env_period : decode 0x600000000000FFFF#64 = .ok (.setEnvPeriod 65535) := by decide
theorem test_decode_set_env_shape : decode 0x700000000000000E#64 = .ok (.setEnvShape 14) := by decide
theorem test_decode_advance : decode 0x8000000000000000#64 = .ok .advance := by decide
theorem test_decode_remove_dc : decode 0x9000000000000000#64 = .ok .removeDc := by decide
theorem test_decode_read_sample : decode 0xA000000000000000#64 = .ok .readSample := by decide

/-- The illegal words of V-ENC, each refused for its own reason. -/
theorem test_decode_illegal :
    decode 0x0000000000000000#64 = .error .reservedOpcode ∧ decode 0xB000000000000000#64 = .error .reservedOpcode ∧
    decode 0xF000000000000000#64 = .error .reservedOpcode ∧ decode 0x8000000000000001#64 = .error .argumentBits ∧
    decode 0x8400000000000000#64 = .error .channelBits ∧ decode 0x5400000000000003#64 = .error .channelBits ∧
    decode 0x7000000100000001#64 = .error .flagBit ∧ decode 0x4000000000000008#64 = .error .mixerBits ∧
    decode 0x3000000100000003#64 = .error .flagBit ∧ decode 0x3000000200000003#64 = .error .reservedBits ∧
    decode 0x1200000000000000#64 = .error .reservedBits := by decide

theorem test_encode :
    encode (.setTonePeriod (some .C) 440) = 0x18000000000001B8#64 ∧
    encode (.setPan (some .C) true 32768) = 0x2800000100008000#64 ∧
    encode (.setMixer (some .B) false true true) = 0x4400000000000006#64 := by decide

theorem test_table_word : decodeTableWord 64 0x30000000000000FF = some (.setVolume (some .A) 255) := by decide

/-! ### Commands and internal operations -/

/-- R111's example. -/
theorem test_set_tone_period :
    (nextOf (exec (.setTonePeriod (some .A) 440) State.reset)).map
      (fun t => ((t.engine.tone.get .A).period, (t.engine.tone.get .B).period)) = some (440#16, 0#16) := by decide

/-- V-TONE-8. -/
theorem test_set_tone_period_rejects :
    responseOf (exec (.setTonePeriod (some .A) 65536) State.reset) = some ⟨.outOfRange, none⟩ := by decide

/-- V-TONE-4 (period 3, ticks 1 to 6) and V-TONE-7 (largest period). -/
theorem test_tone_step :
    ((List.range 6).map fun k => (toneStep^[k + 1] { resetTone PT.num with period := 3#16 }).level)
      = [false, false, true, true, true, false] ∧
    (toneStep { resetTone PT.num with period := 65535#16, counter := 65534#16 }).counter = 0#16 ∧
    (toneStep { resetTone PT.num with period := 65535#16, counter := 65533#16 }).counter = 65534#16 := by
  decide +kernel

/-- V-PAN: -1/2 is clamped to 0, 1/4 gives (3/4, 1/4). -/
theorem test_set_pan :
    (nextOf (execSetPanWith PT (some .A) false (-32768) (ptReset .AY 8 1))).map
      (fun t => ((t.engine.tone.get .A).panLeft, (t.engine.tone.get .A).panRight)) = some (1, 0) ∧
    (nextOf (execSetPanWith PT (some .A) false 16384 (ptReset .AY 8 1))).map
      (fun t => ((t.engine.tone.get .A).panLeft, (t.engine.tone.get .A).panRight)) = some (3 / 4, 1 / 4) := by
  decide +kernel

/-- R154's example: p = 1, equal power. -/
theorem test_set_pan_equal_power :
    (nextOf (execSetPanWith PT (some .B) true 65536 (ptReset .AY 8 1))).map
      (fun t => ((t.engine.tone.get .B).panLeft, (t.engine.tone.get .B).panRight)) = some (0, 1) := by
  decide +kernel

/-- E9: volume 16 is rejected. -/
theorem test_set_volume_rejects :
    responseOf (exec (.setVolume (some .A) 16) State.reset) = some ⟨.outOfRange, none⟩ := by decide

theorem test_set_volume :
    (nextOf (exec (.setVolume (some .C) 15) State.reset)).map (fun t => (t.engine.tone.get .C).volume)
      = some 15#4 := by decide

/-- R153's example: t_off = 0, n_off = 1, e_on = 0. -/
theorem test_set_mixer :
    (nextOf (exec (.setMixer (some .A) true false false) State.reset)).map
      (fun t => ((t.engine.tone.get .A).tOff, (t.engine.tone.get .A).nOff, (t.engine.tone.get .A).eOn))
      = some (false, true, false) := by decide

theorem test_set_noise_period :
    (nextOf (exec (.setNoisePeriod 31) State.reset)).map (fun t => t.engine.noise.period) = some 31#5 := by decide

/-- V-NOISE-6. -/
theorem test_set_noise_period_rejects :
    responseOf (exec (.setNoisePeriod 32) State.reset) = some ⟨.outOfRange, none⟩ := by decide

/-- V-NOISE-1: the register after 15, 18 and 24 shifts; V-NOISE-2: the first 1 of the bit is at tick 17. -/
theorem test_noise_register :
    ((noiseStep PT)^[15] (resetNoise PT)).lfsr = 0x10004 ∧ ((noiseStep PT)^[18] (resetNoise PT)).lfsr = 0x12000 ∧
    ((noiseStep PT)^[24] (resetNoise PT)).lfsr = 0x00480 ∧ ((noiseStep PT)^[16] (resetNoise PT)).bit = false ∧
    ((noiseStep PT)^[17] (resetNoise PT)).bit = true := by decide +kernel

/-- R122's example: period 3 shifts at counter 5, not at 4. -/
theorem test_noise_period_three :
    (noiseStep PT { resetNoise PT with period := 3#5, counter := 5#6 }).counter = 0#6 ∧
    (noiseStep PT { resetNoise PT with period := 3#5, counter := 4#6 }).counter = 5#6 := by decide +kernel

theorem test_set_env_period :
    (nextOf (exec (.setEnvPeriod 1000) State.reset)).map (fun t => t.engine.env.period) = some 1000#16 := by decide

/-- V-ENV-6. -/
theorem test_set_env_period_rejects :
    responseOf (exec (.setEnvPeriod 65536) State.reset) = some ⟨.outOfRange, none⟩ := by decide

/-- V-ENV-4: a shape write clears the counter and restarts the ramp. -/
theorem test_set_env_shape :
    (nextOf (execSetEnvShapeWith PT 12
      { ptReset .AY 8 1 with engine := { resetEngine PT ⟨.AY, 8, 1⟩ with
          env := ⟨3#16, 2#16, 1#5, 12#4, .up, false⟩ } })).map (fun t => t.engine.env)
      = some ⟨3#16, 0#16, 0#5, 12#4, .up, false⟩ := by decide +kernel

theorem test_set_env_shape_rejects :
    responseOf (exec (.setEnvShape 16) State.reset) = some ⟨.outOfRange, none⟩ := by decide

/-- V-ENV, 70 steps: shape 8 wraps, 10 reverses, 11 holds the opposite end, 4 falls to 0. -/
theorem test_env_shapes :
    ((envAdvance PT)^[70] (envRestart PT 8#4 resetEnv)).value = 25#5 ∧
    ((envAdvance PT)^[70] (envRestart PT 10#4 resetEnv)).value = 25#5 ∧
    ((envAdvance PT)^[32] (envRestart PT 10#4 resetEnv)).value = 0#5 ∧
    ((envAdvance PT)^[33] (envRestart PT 10#4 resetEnv)).value = 1#5 ∧
    ((envAdvance PT)^[32] (envRestart PT 11#4 resetEnv)).value = 31#5 ∧
    ((envAdvance PT)^[32] (envRestart PT 4#4 resetEnv)).value = 0#5 := by decide +kernel

/-- V-MIX-8: three channels, both sides. -/
theorem test_mix :
    mix PT .AY
      ⟨⟨0#16, 0#16, true, true, true, false, 15#4, 3 / 4, 1 / 4⟩,
       ⟨0#16, 0#16, true, true, true, false, 7#4, 1 / 2, 1 / 2⟩,
       ⟨0#16, 0#16, true, true, true, false, 1#4, 0, 1⟩⟩ false 0#5 = ⟨59 / 62, 33 / 62⟩ := by decide +kernel

/-- V-MIX-6 and V-MIX-5: a closed gate selects index 0; the envelope selects its value. -/
theorem test_dac_index :
    dacIndex ⟨0#16, 0#16, true, false, false, false, 15#4, 0, 0⟩ false 9#5 = 0 ∧
    dacIndex ⟨0#16, 0#16, false, true, false, true, 15#4, 0, 0⟩ true 9#5 = 9 := by decide

/-- V-INT, first row: from (0, 1, 2, 4), push 8. -/
theorem test_interp :
    (interpPush Numerics.exact ⟨⟨0, 1, 2, 4⟩, zeroQuad Numerics.exact⟩ 8).ic = ⟨2, 4 / 3, 1 / 2, 1 / 6⟩ ∧
    interpEval Numerics.exact (interpPush Numerics.exact ⟨⟨0, 1, 2, 4⟩, zeroQuad Numerics.exact⟩ 8) (1 / 4)
      = 303 / 128 := by decide +kernel

/-- V-FIR-2's orientation: the newest sample meets FIR_COEF[191]. -/
theorem test_fir_orientation :
    firEval { PT with firCoef := fun k => ((k.val : ℚ) + 1) / 18528 }
      (firWrite (firWrite (firWrite (resetFir Numerics.exact) 1) 2) 3) = 287 / 4632 := by decide +kernel

/-- V-STEP, 5 / 2: the first ADVANCE ends with phase 8. -/
theorem test_advance_carry :
    (nextOf (execAdvanceWith PT (ptReset .AY 5 2))).map (fun t => (t.engine.phase, t.engine.fir.left.widx))
      = some (8, 8) := by decide +kernel

/-- V-RST-1: the first ADVANCE at 1000000 / 44100. -/
theorem test_advance_first :
    (nextOf (execAdvanceWith PT (ptReset .AY 1000000 44100))).map
      (fun t => (t.engine.phase, t.engine.tone.a.level, t.engine.env.frozen, t.engine.noise.lfsr, t.engine.out.valid))
      = some (114400, true, true, 0x00900, true) := by decide +kernel

/-- V-DC-1, row 1: x = 1 on the left, 2 on the right. -/
theorem test_remove_dc :
    (nextOf (execRemoveDcWith PT (withOut (ptReset .AY 8 1) 1 2))).map
      (fun t => (t.engine.out.left, t.engine.out.right, t.engine.dc.left.sum, t.engine.dc.right.widx))
      = some (1023 / 1024, 1023 / 512, 1, 1) := by decide +kernel

/-- V-DC-3. -/
theorem test_remove_dc_not_valid : responseOf (exec .removeDc State.reset) = some ⟨.notValid, none⟩ := by decide

theorem test_read_sample :
    responseOf (execReadSampleWith PT (withOut (ptReset .AY 8 1) (1 / 2) (-3))) = some ⟨.ok, some (1 / 2, -3)⟩ := by
  decide +kernel

/-- P2, row 1. -/
theorem test_read_sample_not_valid : responseOf (exec .readSample State.reset) = some ⟨.notValid, none⟩ := by decide

/-- V-ERR-1: with `cfg_ok = 0` the all-zero word gives InvalidConfig; an illegal word with volume 16 gives IllegalCommand. -/
theorem test_admission :
    responseOf (executeWord 0x0000000000000000#64 (State.resetWith ⟨.AY, 0#32, 44100#32⟩))
      = some ⟨.invalidConfig, none⟩ ∧
    responseOf (executeWord 0x3000000100000010#64 State.reset) = some ⟨.illegalCommand, none⟩ ∧
    responseOf (executeWord 0x0000000000000000#64 (poisoned State.reset)) = some ⟨.fatal, none⟩ := by decide

/-- V-RST-2: straps with a non-positive rate. -/
theorem test_reset_straps :
    resetConfig ⟨.YM, 0xFFFFFFFB#32, 0xFFFFFFFB#32⟩ = ⟨false, .YM, 0, 0⟩ ∧
    resetConfig ⟨.AY, 1000000#32, 0#32⟩ = ⟨false, .AY, 0, 0⟩ ∧
    resetConfig ⟨.AY, 1000000#32, 44100#32⟩ = ⟨true, .AY, 1000000, 44100⟩ := by decide

/-- With nothing presented a step changes nothing. -/
theorem test_step_idle : step State.reset = .next State.reset := rfl

/-! ### Witnesses: the hypotheses of each statement can be met -/

theorem witness_DecodeEncodeRoundTrip :
    (Instr.setTonePeriod (some .B) (-2147483648)).wellFormed = true ∧
    (Instr.setPan none true 2147483647).wellFormed = true := by decide

theorem witness_EncodeDecodeRoundTrip : decode 0x2800000100008000#64 = .ok (.setPan (some .C) true 32768) := by decide

theorem witness_DecodeSelectsOpcodeMapRow :
    ((4 : Nat), (0x4000000000000000#64 : CommandWord), (0xF3FFFFFFFFFFFFF8#64 : CommandWord)) ∈ opcodeMap ∧
    ((10 : Nat), (0xA000000000000000#64 : CommandWord), (0xFFFFFFFFFFFFFFFF#64 : CommandWord)) ∈ opcodeMap := by
  decide

theorem witness_StepRunsDecodedInstruction :
    ∃ (s : State) (w : CommandWord) (rest : List HostInput) (i : Instr),
      s.inputs = .command w :: rest ∧ s.engine.config.cfgOk = true ∧ s.engine.fatal = false ∧ decode w = .ok i :=
  ⟨presenting 0x300000000000000F#64 State.reset, _, _, .setVolume (some .A) 15, rfl, by decide, rfl, by decide⟩

/-- All three clauses of AdmissionErrorsInPriorityOrder. -/
theorem witness_AdmissionErrorsInPriorityOrder :
    ((presenting 0#64 (State.resetWith ⟨.AY, 0#32, 1#32⟩)).inputs = [.command 0#64] ∧
      (presenting 0#64 (State.resetWith ⟨.AY, 0#32, 1#32⟩)).engine.config.cfgOk = false) ∧
    ((presenting 0#64 (poisoned State.reset)).engine.config.cfgOk = true ∧
      (presenting 0#64 (poisoned State.reset)).engine.fatal = true) ∧
    ((presenting 0#64 State.reset).engine.config.cfgOk = true ∧ (presenting 0#64 State.reset).engine.fatal = false ∧
      ∃ r, decode 0#64 = .error r) :=
  ⟨⟨rfl, by decide⟩, ⟨by decide, rfl⟩, ⟨by decide, rfl, .reservedOpcode, by decide⟩⟩

/-- A READ_SAMPLE right after reset is answered NotValid: the hypotheses of ErrorResponseChangesNothing,
ResponseDataOnlyFromReadSample, EveryStepTakesTheNextInput and the command clause of
OnlyResetLeavesInvalidConfigAndFatal. -/
theorem witness_ErrorResponseChangesNothing :
    ∃ (s t : State) (w : CommandWord) (rest : List HostInput) (r : Response),
      s.inputs = .command w :: rest ∧ step s = .next t ∧ t.response = some r ∧ r.status ≠ .ok :=
  ⟨presenting 0xA000000000000000#64 State.reset, _, _, _, ⟨.notValid, none⟩, rfl, rfl, rfl, by decide⟩

theorem witness_ResponseDataOnlyFromReadSample :
    ∃ (s t : State) (w : CommandWord) (rest : List HostInput),
      s.inputs = .command w :: rest ∧ step s = .next t ∧ decode w = .ok .readSample ∧
      t.response = some ⟨.ok, some (Config.params.num.enc 1, Config.params.num.enc 2)⟩ :=
  ⟨presenting 0xA000000000000000#64 (withOut State.reset 1 2), _, _, _, rfl, rfl, by decide, rfl⟩

theorem witness_CommandErrorsAsTabled : ∃ (s t : State), exec .removeDc s = .next t := ⟨State.reset, _, rfl⟩

theorem witness_NotValidBeforeFirstAdvance : State.reset.engine.out.valid = false := rfl

theorem witness_EveryStepTakesTheNextInput :
    ∃ (s t : State) (i : HostInput) (rest : List HostInput), s.inputs = i :: rest ∧ step s = .next t :=
  ⟨{ State.reset with inputs := [.command 0#64, .reset Config.straps] }, _, _, _, rfl, rfl⟩

theorem witness_ResetInputRebuildsTheEngine :
    ∃ (s : State) (st st' : Straps) (rest : List HostInput), s.inputs = .reset st :: rest ∧
      (0 < st.clkHz.toInt ∧ 0 < st.outHz.toInt) ∧ ¬(0 < st'.clkHz.toInt ∧ 0 < st'.outHz.toInt) :=
  ⟨{ State.reset with inputs := [.reset ⟨.YM, 8#32, 1#32⟩] }, ⟨.YM, 8#32, 1#32⟩, ⟨.YM, 8#32, 0xFFFFFFFF#32⟩, _, rfl,
    by decide, by decide⟩

theorem witness_OnlyResetLeavesInvalidConfigAndFatal :
    (∃ (s t : State) (w : CommandWord) (rest : List HostInput), s.inputs = .command w :: rest ∧ step s = .next t ∧
      s.engine.config.cfgOk = false) ∧
    (∃ (s t : State) (w : CommandWord) (rest : List HostInput), s.inputs = .command w :: rest ∧ step s = .next t ∧
      s.engine.fatal = true) ∧
    (∃ (s t : State) (st : Straps) (rest : List HostInput), s.inputs = .reset st :: rest ∧ step s = .next t ∧
      0 < st.clkHz.toInt ∧ 0 < st.outHz.toInt) :=
  ⟨⟨presenting 0#64 (State.resetWith ⟨.AY, 0#32, 1#32⟩), _, _, _, rfl, rfl, by decide⟩,
   ⟨presenting 0#64 (poisoned State.reset), _, _, _, rfl, rfl, rfl⟩,
   ⟨{ State.reset with inputs := [.reset Config.straps] }, _, Config.straps, _, rfl, rfl, by decide⟩⟩

theorem witness_ConfigLatchWrittenOnlyByReset :
    (∃ (s t : State), step s = .next t ∧ ∀ st rest, s.inputs ≠ .reset st :: rest) ∧
    (∃ (s t : State) (st : Straps) (rest : List HostInput), s.inputs = .reset st :: rest ∧ step s = .next t) :=
  ⟨⟨State.reset, State.reset, rfl, fun _ _ => by simp [State.reset, State.resetWith]⟩,
   ⟨{ State.reset with inputs := [.reset Config.straps] }, _, Config.straps, _, rfl, rfl⟩⟩

/-- The operand ranges of the SET statements, at both ends, and the rejected sides of SetVolumeStoresOrRejects. -/
theorem witness_SetCommands :
    ((0 : Int) ≤ 65535 ∧ (65535 : Int) ≤ 65535) ∧ ((0 : Int) ≤ 15 ∧ (15 : Int) ≤ 15) ∧
    ((0 : Int) ≤ 31 ∧ (31 : Int) ≤ 31) ∧
    ((none : ChannelField) = none ∨ (0 : Int) < 0 ∨ (15 : Int) < 0) ∧ ((15 : Int) < 16) ∧ ((-1 : Int) < 0) := by
  decide

theorem witness_SetTonePeriodStoresThePeriod : ∃ n : Int, 0 ≤ n ∧ n ≤ 65535 := ⟨65535, by decide⟩
theorem witness_SetVolumeStoresOrRejects : ∃ n : Int, 0 ≤ n ∧ n ≤ 15 := ⟨15, by decide⟩
theorem witness_SetNoisePeriodStoresThePeriod : ∃ n : Int, 0 ≤ n ∧ n ≤ 31 := ⟨31, by decide⟩
theorem witness_SetEnvPeriodStoresThePeriod : ∃ n : Int, 0 ≤ n ∧ n ≤ 65535 := ⟨0, by decide⟩
theorem witness_SetEnvShapeRestartsTheEnvelope : ∃ n : Int, 0 ≤ n ∧ n ≤ 15 := ⟨15, by decide⟩

/-- The three clauses of SetPanStoresClampedWeights' operand: below, above and at both ends of the range. -/
theorem witness_SetPanStoresClampedWeights :
    ((-1 : Int) < 0) ∧ ((65536 : Int) < 65537) ∧ ((0 : ℚ) * 65536 = ((0 : Int) : ℚ)) ∧
    ((1 : ℚ) * 65536 = ((65536 : Int) : ℚ)) := by norm_num

theorem witness_PanWeightsStayInUnit :
    PT.SqrtInUnit ∧ ∃ s t : State, PansInUnit s.engine.tone ∧
      execSetPanWith PT.withExact (some .B) true 65536 s = .next t :=
  ⟨fun _ h0 h1 => ⟨h0, h1⟩, ptReset .AY 1#32 1#32, _, fun c => by cases c <;> exact ⟨le_rfl, zero_le_one, le_rfl, zero_le_one⟩,
    rfl⟩

theorem witness_LastWriteWins :
    ∃ (i j : Instr) (s t : State), SameRegister i j ∧ ¬OutOfRangeOperand j ∧ exec i s = .next t :=
  ⟨.setVolume (some .A) 3, .setVolume (some .A) 15, State.reset, _, rfl, by simp [OutOfRangeOperand], rfl⟩

theorem witness_ElementsWrittenOnlyByTheirCommands :
    ∃ (s t : State), exec (.setMixer (some .B) true true true) s = .next t := ⟨State.reset, _, rfl⟩

/-- Both clauses of ToneStepCountsAndToggles, at the boundary between them. -/
theorem witness_ToneStepCountsAndToggles :
    (3#16 : BitVec 16).toNat ≤ (2#16 : BitVec 16).toNat + 1 ∧ (1#16 : BitVec 16).toNat + 1 < (3#16 : BitVec 16).toNat := by
  decide

theorem witness_ToneToggleInterval : (resetTone PT.num).counter = 0#16 := rfl

theorem witness_TonePeriodChangedWhileCounting :
    (3#16 : BitVec 16).toNat ≤ (6#16 : BitVec 16).toNat + 1 ∧ (6#16 : BitVec 16).toNat + 3 < (10#16 : BitVec 16).toNat := by
  decide

theorem witness_NoiseStepCountsAndShifts :
    2 * (3#5 : BitVec 5).toNat ≤ (5#6 : BitVec 6).toNat + 1 ∧ (4#6 : BitVec 6).toNat + 1 < 2 * (3#5 : BitVec 5).toNat := by
  decide

theorem witness_NoiseShiftInterval : (resetNoise PT).counter = 0#6 := rfl

theorem witness_NoiseBitZeroBeforeFirstShift :
    61 < max (2 * (31#5 : BitVec 5).toNat) 1 ∧ max (2 * (31#5 : BitVec 5).toNat) 1 ≤ 62 ∧ (resetTone PT.num).nOff = false := by
  decide

/-- Every clause of EnvAdvanceRampsAndActsAtBoundary: frozen, rising, falling, and the five boundary actions by the
default flags of shapes 0, 9, 11, 10 and 8 at value 0 going down. -/
theorem witness_EnvAdvanceRampsAndActsAtBoundary :
    ({ resetEnv with frozen := true } : EnvState).frozen = true ∧ (30#5 : BitVec 5).toNat < 31 ∧
    0 < (1#5 : BitVec 5).toNat ∧ (resetEnv.dir = .down ∧ resetEnv.value = 0#5 ∧ resetEnv.frozen = false) ∧
    PT.envFlags 0#4 = ⟨false, false, false, false⟩ ∧ PT.envFlags 9#4 = ⟨true, false, false, true⟩ ∧
    PT.envFlags 11#4 = ⟨true, false, true, true⟩ ∧ PT.envFlags 10#4 = ⟨true, false, true, false⟩ ∧
    PT.envFlags 8#4 = ⟨true, false, false, false⟩ := by decide

theorem witness_EnvRolloverInterval : resetEnv.counter = 0#16 := rfl

/-- The hypothesis of EnvRampSequences and EnvelopeFromResetStaysZero. -/
theorem witness_EnvRampSequences : PT.envFlags = Config.defaultEnvFlags := rfl
theorem witness_EnvelopeFromResetStaysZero : PT.envFlags = Config.defaultEnvFlags := rfl

/-- Both clauses of DacIndexFromGateAndLevel, with the envelope on and off. -/
theorem witness_DacIndexFromGateAndLevel :
    ∃ t u v : ToneChannel, (t.level = true ∨ t.tOff = true) ∧ (true = true ∨ t.nOff = true) ∧ t.eOn = true ∧
      (u.level = true ∨ u.tOff = true) ∧ (false = true ∨ u.nOff = true) ∧ u.eOn = false ∧
      ((v.level = false ∧ v.tOff = false) ∨ (false = false ∧ v.nOff = false)) :=
  ⟨⟨0#16, 0#16, true, false, false, true, 0#4, 0, 0⟩, ⟨0#16, 0#16, false, true, true, false, 15#4, 0, 0⟩,
    resetTone PT.num, by decide⟩

theorem witness_VolumeZeroSilentAndMonotone :
    PT.DacZeroAtZero ∧ PT.DacEvenMonotone ∧
    ∃ t : ToneChannel, t.tOff = true ∧ t.nOff = true ∧ t.eOn = false ∧ t.volume = 0#4 :=
  ⟨by intro v; cases v <;> decide +kernel, by intro v; cases v <;> decide +kernel,
    ⟨0#16, 0#16, false, true, true, false, 0#4, 0, 0⟩, by decide⟩

theorem witness_RawSampleRange :
    PT.withExact.DacInUnit ∧ ∃ t : ToneChannel, PansInUnit ⟨t, t, t⟩ :=
  ⟨by intro v; cases v <;> decide +kernel, ⟨0#16, 0#16, false, true, true, false, 0#4, 3 / 4, 1⟩,
    fun c => by cases c <;> decide +kernel⟩

theorem witness_AdvanceCompletes :
    0 < State.reset.engine.config.outHz ∧ State.reset.engine.phase < State.reset.engine.config.inc := by decide

/-- The hypotheses of AdvanceRunsTheLoop: a state at each side of its emission clause, between commands. -/
theorem witness_AdvanceRunsTheLoop :
    0 < State.reset.engine.config.outHz ∧ State.reset.engine.phase < State.reset.engine.config.inc ∧
    State.reset.engine.phase < State.reset.engine.config.mod ∧
    ({ State.reset.engine with phase := 1000000 } : Engine).config.mod ≤ 1000000 := by decide

theorem witness_AdvanceTickCount :
    ∃ (P : Params) (s t : State), 0 < s.engine.config.outHz ∧ execAdvanceWith P s = .next t ∧
      s.engine.phase < s.engine.config.inc :=
  ⟨PT, ptReset .AY 1#32 1#32, _, by decide, rfl, by decide⟩

theorem witness_AdvanceRunTickCount : 0 < Config.straps.clkHz.toInt ∧ 0 < Config.straps.outHz.toInt := by decide

theorem witness_InterpPushAndEvalAsWritten :
    ∃ i : InterpState, i.iy.x1 = 1 ∧ i.iy.x2 = 2 ∧ i.iy.x3 = 4 := ⟨⟨⟨0, 1, 2, 4⟩, ⟨0, 0, 0, 0⟩⟩, rfl, rfl, rfl⟩

theorem witness_CubicReproducedExactly :
    ∃ f : ℚ → ℚ, ∀ x, f x = 1 + 2 * x + 3 * x ^ 2 + 4 * x ^ 3 := ⟨_, fun _ => rfl⟩

theorem witness_InterpCoefficientsStayDerived :
    ∃ (s t : State), s.engine.InterpDerived Config.params ∧ exec .readSample s = .next t :=
  ⟨{ State.reset with engine := { State.reset.engine with
      interp := ⟨interpPush Config.params.num (resetInterp Config.params.num) 1,
                 interpPush Config.params.num (resetInterp Config.params.num) 2⟩ } }, _, ⟨rfl, rfl⟩, rfl⟩

theorem reset_fir_mirrored (N : Numerics) : (resetFir N).Mirrored := by
  intro i
  simp [resetFir]

theorem witness_FirWindowSlidesByOne : (resetFir PT.num).Mirrored := reset_fir_mirrored _

theorem witness_FirEvalWeighsTheLast192 : (List.replicate 192 (1 : Amp)).length = 192 := List.length_replicate

theorem witness_FirSettlesOnConstant : PT.FirUnitGain ∧ (resetFir PT.num).Mirrored :=
  ⟨by simp [Params.FirUnitGain, PT], reset_fir_mirrored _⟩

theorem witness_RemoveDcFiltersBothSides : (withOut State.reset 1 2).engine.out.valid = true := rfl

theorem witness_DcRunningSumIsTheTotal : (resetDc Numerics.exact).SumIsTotal := by
  show (0 : ℚ) = (Vector.replicate 1024 (0 : ℚ)).toList.sum
  rw [Vector.toList_replicate, List.sum_replicate, smul_zero]

theorem witness_ReadSampleReturnsThePair : (withOut State.reset 1 2).engine.out.valid = true := rfl

/-- The machine is symmetric after every RESET. -/
theorem reset_symmetric (P : Params) (st : Straps) : (resetEngine P st).Symmetric :=
  ⟨fun c => by cases c <;> rfl, rfl, rfl, rfl, rfl⟩

/-- Both ways of LeftRightSymmetryKept under a parameter set, from a state whose channels are panned alike. -/
theorem witness_LeftRightSymmetryKept :
    ∃ (P : Params) (s : State), s.engine.Symmetric ∧ (∃ t, execAdvanceWith P s = .next t) ∧
      ∃ t, execRemoveDcWith P s = .next t :=
  ⟨PT, withOut (ptReset .AY 1#32 1#32) 1 1,
    ⟨(reset_symmetric PT ⟨.AY, 1#32, 1#32⟩).pan, rfl, rfl, rfl, rfl⟩, ⟨_, rfl⟩, ⟨_, rfl⟩⟩

/-- LeftRightSymmetryKept's clause on every step: a READ_SAMPLE, and a step without input. -/
theorem witness_LeftRightSymmetryKept_step :
    (∃ s t : State, s.engine.Symmetric ∧ (∀ i ∈ s.inputs.head?, ¬i.PansUnequally Config.params) ∧
      s.inputs ≠ [] ∧ step s = .next t) ∧
    ∃ s t : State, s.engine.Symmetric ∧ (∀ i ∈ s.inputs.head?, ¬i.PansUnequally Config.params) ∧
      s.inputs = [] ∧ step s = .next t := by
  refine ⟨⟨presenting 0xA000000000000000#64 State.reset, _, reset_symmetric _ _, ?_, by decide, rfl⟩,
    ⟨State.reset, _, reset_symmetric _ _, by simp [State.reset, State.resetWith], rfl, rfl⟩⟩
  rintro _ ⟨⟩ ⟨w, c, eqp, raw, hw, hd, -⟩
  obtain rfl : (0xA000000000000000#64 : CommandWord) = w := HostInput.command.inj hw
  rw [test_decode_read_sample] at hd
  exact absurd hd (by simp)

/-- LeftRightSymmetryKept's clause on a silent channel: after RESET with channel A panned hard right, volume 0. -/
theorem witness_LeftRightSymmetryKept_silent :
    ∃ s : State, s.engine.SidesAlike ∧ (∀ c, s.engine.ContributesAlike PT c) ∧
      (s.engine.tone.get .A).panLeft ≠ (s.engine.tone.get .A).panRight ∧ ∃ t, execAdvanceWith PT s = .next t := by
  let e := (resetEngine PT ⟨.AY, 1#32, 1#32⟩).setTone .A { resetTone PT.num with panRight := 1 }
  have quiet : ∀ k : Nat, (toneStep^[k] (e.tone.get .A)).eOn = false ∧ (toneStep^[k] (e.tone.get .A)).volume = 0#4 := by
    intro k
    induction k with
    | zero => exact ⟨rfl, rfl⟩
    | succ k ih =>
      rw [Function.iterate_succ_apply']
      unfold toneStep
      split <;> exact ih
  refine ⟨⟨e, [], none⟩, ⟨rfl, rfl, rfl, rfl⟩, ?_, by decide +kernel, _, rfl⟩
  intro c
  cases c
  · refine .inr ⟨by decide +kernel, fun k => ?_⟩
    have hidx : ∀ bit env, dacIndex (toneStep^[k + 1] (e.tone.get .A)) bit env = 0 := by
      intro bit env
      have h := quiet (k + 1)
      generalize toneStep^[k + 1] (e.tone.get .A) = t at h ⊢
      simp [dacIndex, dacLevel, h.1, h.2]
    rw [channelAmp, hidx]
    decide +kernel
  · exact .inl rfl
  · exact .inl rfl

theorem witness_ExactNumericsNeverFatal :
    ∃ (P : Params) (s : State), s.engine.fatal = false ∧ (∃ t, execAdvanceWith P.withExact s = .next t) ∧
      ∃ t, execRemoveDcWith P.withExact s = .next t :=
  ⟨PT, withOut (ptReset .AY 1#32 1#32) 1 2, rfl, ⟨_, rfl⟩, ⟨_, rfl⟩⟩

/-- The reset state of `State.reset` has the invariant, and a step from it with a command presented gives a next state. -/
theorem reset_inv : State.reset.Inv where
  config := by simp [State.reset, State.resetWith, ConfigLatch.Ok, resetConfig, strapsValid, Config.straps]
  toneCounter := fun c => by cases c <;> decide
  envCounter := by decide
  noiseCounter := by decide
  lfsr := Config.params.noiseSeed.isLt
  phase := by decide
  mirroredLeft := reset_fir_mirrored _
  mirroredRight := reset_fir_mirrored _
  firIndexEqual := rfl
  firIndexMod := rfl
  dcIndexEqual := rfl
  finite := fun _ h => absurd h (by decide)
  noOutput := fun _ => rfl

theorem witness_StepKeepsInvariant : ∃ s t : State, s.Inv ∧ step s = .next t :=
  ⟨State.reset, State.reset, reset_inv, rfl⟩

theorem witness_EverySequenceHasAnOutcome : State.reset.Inv := reset_inv

end Sys2Proof.Tests
end

section
/-! PROOFS of the statements about the state (10_state.md). What a command can do to the engine is said once, by
`CommandEffect`, and what a step can do by `step_engine_cases`; the invariants follow from these by cases. -/

namespace Sys2Proof.Machine

/-! ### What a command can do to the engine -/

/-- The change of the engine by a command that answers a next state (60_exceptions.md R227, step 4): nothing, when the
command is rejected or is READ_SAMPLE, or what the command's own rule writes, under the condition it was accepted. -/
inductive CommandEffect (P : Params) : Instr → Engine → Engine → Prop
  | unchanged (i : Instr) (e : Engine) : CommandEffect P i e e
  | setTonePeriod (c : Channel) (n : Int) (e : Engine) (hn : 0 ≤ n ∧ n ≤ 65535) :
      CommandEffect P (.setTonePeriod (some c) n) e
        (e.setTone c { e.tone.get c with period := BitVec.ofInt 16 n })
  | setPan (c : Channel) (eqp : Bool) (raw : Int) (e : Engine) :
      CommandEffect P (.setPan (some c) eqp raw) e
        (e.setTone c { e.tone.get c with
          panLeft := (panWeights P eqp (panOf raw)).1
          panRight := (panWeights P eqp (panOf raw)).2 })
  | setVolume (c : Channel) (n : Int) (e : Engine) (hn : 0 ≤ n ∧ n ≤ 15) :
      CommandEffect P (.setVolume (some c) n) e (e.setTone c { e.tone.get c with volume := BitVec.ofInt 4 n })
  | setMixer (c : Channel) (tn no en : Bool) (e : Engine) :
      CommandEffect P (.setMixer (some c) tn no en) e
        (e.setTone c { e.tone.get c with tOff := !tn, nOff := !no, eOn := en })
  | setNoisePeriod (n : Int) (e : Engine) (hn : 0 ≤ n ∧ n ≤ 31) :
      CommandEffect P (.setNoisePeriod n) e { e with noise := { e.noise with period := BitVec.ofInt 5 n } }
  | setEnvPeriod (n : Int) (e : Engine) (hn : 0 ≤ n ∧ n ≤ 65535) :
      CommandEffect P (.setEnvPeriod n) e { e with env := { e.env with period := BitVec.ofInt 16 n } }
  | setEnvShape (n : Int) (e : Engine) (hn : 0 ≤ n ∧ n ≤ 15) :
      CommandEffect P (.setEnvShape n) e { e with env := envRestart P (BitVec.ofInt 4 n) e.env }
  | advance (e e' : Engine) (hloop : advanceLoop P (advanceFuel e.config) 0 e = some e') :
      CommandEffect P .advance e (latchFir P e')
  | removeDc (e : Engine) (hvalid : e.out.valid = true) : CommandEffect P .removeDc e (filterOutput P.num e)

/-- The engine of an answered next state is the one the answer was given. -/
theorem answer_next_engine {st : Status} {d : Option (Sample × Sample)} {e : Engine} {s t : State}
    (h : answer st d e s = .next t) : t.engine = e := by
  rw [answer_eq, Host.Outcome.next.injEq] at h
  rw [← h]

section EffectOfChecks
variable {P : Params} {i : Instr} {s t : State}

/-- A command behind a channel check: only the effect on a channel is left to show. -/
theorem CommandEffect.of_withChannel {ch : ChannelField} {k : Channel → Result} (h : withChannel ch s k = .next t)
    (hk : ∀ c, ch = some c → k c = .next t → CommandEffect P i s.engine t.engine) :
    CommandEffect P i s.engine t.engine := by
  obtain ⟨-, rfl⟩ | ⟨c, hc, hkc⟩ := withChannel_next h
  · exact .unchanged i s.engine
  · exact hk c hc hkc

/-- A command behind a range check: only the effect of an operand in range is left to show. -/
theorem CommandEffect.of_withRange {top : Nat} {n : Int} {k : Result} (h : withRange top n s k = .next t)
    (hk : 0 ≤ n ∧ n ≤ (top : Int) → k = .next t → CommandEffect P i s.engine t.engine) :
    CommandEffect P i s.engine t.engine := by
  obtain ⟨-, rfl⟩ | ⟨hn, hk'⟩ := withRange_next h
  · exact .unchanged i s.engine
  · exact hk hn hk'

/-- A command behind the validity check: only the effect with a valid output latch is left to show. -/
theorem CommandEffect.of_withValid {k : Result} (h : withValid s k = .next t)
    (hk : s.engine.out.valid = true → k = .next t → CommandEffect P i s.engine t.engine) :
    CommandEffect P i s.engine t.engine := by
  obtain ⟨-, rfl⟩ | ⟨hv, hk'⟩ := withValid_next h
  · exact .unchanged i s.engine
  · exact hk hv hk'

end EffectOfChecks

theorem execSetPanWith_effect {P : Params} {ch : ChannelField} {eqp : Bool} {raw : Int} {s t : State}
    (h : execSetPanWith P ch eqp raw s = .next t) : CommandEffect P (.setPan ch eqp raw) s.engine t.engine := by
  refine .of_withChannel h fun c hc hk => ?_
  rw [hc, answer_next_engine hk]
  exact .setPan c eqp raw s.engine

theorem execAdvanceWith_effect {P : Params} {s t : State} (h : execAdvanceWith P s = .next t) :
    CommandEffect P .advance s.engine t.engine := by
  obtain ⟨e, hloop, hnext⟩ | ⟨-, hfault⟩ := execAdvanceWith_cases P s
  · rw [hnext, Host.Outcome.next.injEq] at h
    rw [← h]
    exact .advance s.engine e hloop
  · rw [hfault] at h
    cases h

theorem execRemoveDcWith_effect {P : Params} {s t : State} (h : execRemoveDcWith P s = .next t) :
    CommandEffect P .removeDc s.engine t.engine := by
  refine .of_withValid h fun hv hk => ?_
  rw [answer_next_engine hk]
  exact .removeDc s.engine hv

/-- Every command that answers a next state has one of the effects of `CommandEffect`. -/
theorem exec_effect {i : Instr} {s t : State} (h : exec i s = .next t) :
    CommandEffect Config.params i s.engine t.engine := by
  cases i with
  | setTonePeriod ch n =>
    refine .of_withChannel h fun c hc hk => .of_withRange hk fun hn hk => ?_
    rw [hc, answer_next_engine hk]
    exact .setTonePeriod c n s.engine hn
  | setPan ch eqp raw => exact execSetPanWith_effect h
  | setVolume ch n =>
    refine .of_withChannel h fun c hc hk => .of_withRange hk fun hn hk => ?_
    rw [hc, answer_next_engine hk]
    exact .setVolume c n s.engine hn
  | setMixer ch tn no en =>
    refine .of_withChannel h fun c hc hk => ?_
    rw [hc, answer_next_engine hk]
    exact .setMixer c tn no en s.engine
  | setNoisePeriod n =>
    refine .of_withRange h fun hn hk => ?_
    rw [answer_next_engine hk]
    exact .setNoisePeriod n s.engine hn
  | setEnvPeriod n =>
    refine .of_withRange h fun hn hk => ?_
    rw [answer_next_engine hk]
    exact .setEnvPeriod n s.engine hn
  | setEnvShape n =>
    refine .of_withRange h fun hn hk => ?_
    rw [answer_next_engine hk]
    exact .setEnvShape n s.engine hn
  | advance => exact execAdvanceWith_effect h
  | removeDc => exact execRemoveDcWith_effect h
  | readSample =>
    refine .of_withValid h fun _ hk => ?_
    rw [answer_next_engine hk]
    exact .unchanged .readSample s.engine

/-- A step that finds a RESET input applies it. -/
theorem step_of_reset {s : State} {st : Straps} {rest : List HostInput} (hin : s.inputs = .reset st :: rest) :
    step s = .next (applyReset st { s with inputs := rest }) := by
  rw [step, takeInput, hin]

/-- What a step that answers a next state does to the engine: a RESET input builds it anew; any other input, or none,
leaves it alone or has the effect of an admitted command. -/
theorem step_engine_cases {s t : State} (h : step s = .next t) :
    (∃ st rest, s.inputs = .reset st :: rest ∧ t.engine = resetEngine Config.params st) ∨
    t.engine = s.engine ∨
    (s.engine.config.cfgOk = true ∧ s.engine.fatal = false ∧
      ∃ i, CommandEffect Config.params i s.engine t.engine) := by
  obtain ⟨-, hs⟩ | ⟨st, rest, hin, hs⟩ | ⟨w, rest, -, hs⟩ := step_cases s
  · rw [hs, Host.Outcome.next.injEq] at h
    exact .inr (.inl (by rw [h]))
  · rw [hs, Host.Outcome.next.injEq] at h
    exact .inl ⟨st, rest, hin, by rw [← h, applyReset_engine]⟩
  · rw [hs] at h
    obtain ⟨err, -, hx⟩ | ⟨i, hcfg, hfatal, -, hx⟩ := executeWord_cases w { s with inputs := rest }
    · rw [hx, Host.Outcome.next.injEq] at h
      exact .inr (.inl (by rw [← h]))
    · rw [hx] at h
      have heff := exec_effect h
      exact .inr (.inr ⟨hcfg, hfatal, i, heff⟩)

/-! ### What ADVANCE's loop leaves unchanged -/

/-- A field of the engine that neither branch of the loop writes is as before when the loop ends. -/
theorem advanceLoop_frame {P : Params} {α : Type} {field : Engine → α} (tick : ∀ e, field (loopTick P e) = field e)
    (emit : ∀ e, field (loopEmit P e) = field e) {fuel : Nat} {e e' : Engine}
    (h : advanceLoop P fuel 0 e = some e') : field e' = field e :=
  advanceLoop_keeps (Q := fun _ x => field x = field e) (fun _ x _ _ hx => (tick x).trans hx)
    (fun _ x _ _ hx => (emit x).trans hx) fuel 0 e e' (Nat.zero_le 8) rfl h

section LoopFrame
variable {P : Params} {fuel : Nat} {e e' : Engine} (h : advanceLoop P fuel 0 e = some e')
include h

theorem advanceLoop_config : e'.config = e.config := advanceLoop_frame (loopTick_config P) (loopEmit_config P) h

theorem advanceLoop_dc : e'.dc = e.dc := advanceLoop_frame (loopTick_dc P) (loopEmit_dc P) h

theorem advanceLoop_fatal : e'.fatal = e.fatal := advanceLoop_frame (loopTick_fatal P) (loopEmit_fatal P) h

end LoopFrame

/-! ### The generators' counters and register (R46 (a), (b), R30) -/

/-- A stored tone counter is below a 16-bit period. -/
theorem toneStep_counter_le (t : ToneChannel) : (toneStep t).counter.toNat ≤ 65534 := by
  have hperiod := t.period.isLt
  unfold toneStep
  split
  · simp
  · simp only [BitVec.toNat_ofNat]
    omega

theorem envBoundary_counter (P : Params) (e : EnvState) : (envBoundary P e).counter = e.counter := by
  unfold envBoundary
  split_ifs <;> rfl

theorem envAdvance_counter (P : Params) (e : EnvState) : (envAdvance P e).counter = e.counter := by
  unfold envAdvance
  split
  · rfl
  · split
    · split
      · rfl
      · exact envBoundary_counter P e
    · split
      · rfl
      · exact envBoundary_counter P e

/-- A stored envelope counter is below a 16-bit period. -/
theorem envStep_counter_le (P : Params) (e : EnvState) : (envStep P e).counter.toNat ≤ 65534 := by
  have hperiod := e.period.isLt
  unfold envStep
  split
  · simp [envAdvance_counter]
  · simp only [BitVec.toNat_ofNat]
    omega

/-- A stored noise counter is below twice a 5-bit period. -/
theorem noiseStep_counter_le (P : Params) (n : NoiseState) : (noiseStep P n).counter.toNat ≤ 61 := by
  have hperiod := n.period.isLt
  unfold noiseStep
  split
  · simp [noiseShift]
  · simp only [BitVec.toNat_ofNat]
    omega

/-- The noise register keeps to its width: a shift stores a register value. -/
theorem noiseStep_lfsr_lt {P : Params} {n : NoiseState} (h : n.lfsr < 2 ^ (P.lfsrWidth : Nat)) :
    (noiseStep P n).lfsr < 2 ^ (P.lfsrWidth : Nat) := by
  unfold noiseStep
  split
  · exact (P.lfsrNext (lfsrBits P n)).isLt
  · exact h

/-- R46 (a), (b) and R30: the counters are bounded and the register keeps to its width. -/
structure Engine.GeneratorsBounded (P : Params) (e : Engine) : Prop where
  toneCounter : ∀ c, (e.tone.get c).counter.toNat ≤ 65534
  envCounter : e.env.counter.toNat ≤ 65534
  noiseCounter : e.noise.counter.toNat ≤ 61
  lfsr : e.noise.lfsr < 2 ^ (P.lfsrWidth : Nat)

theorem Engine.GeneratorsBounded.loopTick {P : Params} {e : Engine} (h : e.GeneratorsBounded P) :
    (loopTick P e).GeneratorsBounded P where
  toneCounter c := by
    rw [loopTick_tone, Channels.get_map]
    exact toneStep_counter_le _
  envCounter := envStep_counter_le P e.env
  noiseCounter := noiseStep_counter_le P e.noise
  lfsr := noiseStep_lfsr_lt h.lfsr

theorem Engine.GeneratorsBounded.advanceLoop {P : Params} {fuel : Nat} {e e' : Engine} (h : e.GeneratorsBounded P)
    (hloop : advanceLoop P fuel 0 e = some e') : e'.GeneratorsBounded P :=
  advanceLoop_keeps (Q := fun _ x => x.GeneratorsBounded P) (fun _ _ _ _ hx => hx.loopTick)
    (fun _ _ _ _ hx => ⟨hx.toneCounter, hx.envCounter, hx.noiseCounter, hx.lfsr⟩) fuel 0 e e' (Nat.zero_le 8) h hloop

/-! ### The FIR rings (R46 (f), (h)) -/

theorem FirState.Mirrored.write {f : FirState} (h : f.Mirrored) (v : Amp) : (f.write v).Mirrored := by
  intro i
  have hi := i.isLt
  rw [FirState.write_buf, FirState.write_buf, h i]
  by_cases hw : i.val = f.widx.val
  · rw [if_pos (.inl hw), if_pos (.inr (by omega))]
  · rw [if_neg (by omega), if_neg (by omega)]

theorem resetFir_mirrored (N : Numerics) : (resetFir N).Mirrored := fun i => by simp [resetFir]

/-- R46 (f), (h) after `m` emissions of one ADVANCE: both rings mirrored, their indices equal and `m` past a multiple
of 8. -/
structure Engine.FirsAligned (m : Nat) (e : Engine) : Prop where
  mirroredLeft : e.fir.left.Mirrored
  mirroredRight : e.fir.right.Mirrored
  indexEqual : e.fir.left.widx = e.fir.right.widx
  indexMod : e.fir.left.widx.val % 8 = m % 8

/-- An emission moves both indices by one; the ring's length 192 is a multiple of 8, so the wrap keeps the residue. -/
theorem Engine.FirsAligned.loopEmit {m : Nat} {e : Engine} (h : e.FirsAligned m) (P : Params) :
    (loopEmit P e).FirsAligned (m + 1) where
  mirroredLeft := h.mirroredLeft.write _
  mirroredRight := h.mirroredRight.write _
  indexEqual := by
    apply Fin.ext
    rw [loopEmit_fir_left, loopEmit_fir_right, firWrite, firWrite, FirState.write_widx, FirState.write_widx,
      h.indexEqual]
  indexMod := by
    have hmod := h.indexMod
    rw [loopEmit_fir_left, firWrite, FirState.write_widx]
    omega

theorem Engine.FirsAligned.advanceLoop {P : Params} {fuel : Nat} {e e' : Engine} (h : e.FirsAligned 0)
    (hloop : advanceLoop P fuel 0 e = some e') : e'.FirsAligned 8 :=
  advanceLoop_keeps (Q := Engine.FirsAligned)
    (fun _ _ _ _ hx => ⟨hx.mirroredLeft, hx.mirroredRight, hx.indexEqual, hx.indexMod⟩)
    (fun _ _ _ _ hx => hx.loopEmit P) fuel 0 e e' (Nat.zero_le 8) h hloop

/-! ### The phase (R37, R46 (d)) -/

/-- R37 with R46 (d): within ADVANCE the phase stays below MOD + INC, and right after the last emission below INC. -/
def Engine.PhaseBounded (m : Nat) (e : Engine) : Prop :=
  e.phase < e.config.mod + e.config.inc ∧ (m = 8 → e.phase < e.config.inc)

theorem Engine.PhaseBounded.loopTick {m : Nat} {e : Engine} (P : Params) (hm : m < 8) (hp : e.phase < e.config.mod) :
    (loopTick P e).PhaseBounded m := by
  refine ⟨?_, fun h8 => absurd h8 (Nat.ne_of_lt hm)⟩
  rw [loopTick_phase, loopTick_config]
  omega

theorem Engine.PhaseBounded.loopEmit {m n : Nat} {e : Engine} (h : e.PhaseBounded m) (P : Params)
    (hp : e.config.mod ≤ e.phase) : (loopEmit P e).PhaseBounded n := by
  have hlt : (Machine.loopEmit P e).phase < e.config.inc := by
    have hbound := h.1
    rw [loopEmit_phase]
    omega
  exact ⟨Nat.lt_add_left _ hlt, fun _ => hlt⟩

/-- An ADVANCE that finds the phase below INC leaves it below INC. -/
theorem advanceLoop_phase_lt {P : Params} {fuel : Nat} {e e' : Engine} (h : e.phase < e.config.inc)
    (hloop : advanceLoop P fuel 0 e = some e') : e'.phase < e'.config.inc := by
  have hbound : e'.PhaseBounded 8 :=
    advanceLoop_keeps (Q := Engine.PhaseBounded) (fun _ _ hm hp _ => .loopTick P hm hp)
      (fun _ _ _ hp hx => hx.loopEmit P hp) fuel 0 e e' (Nat.zero_le 8) ⟨Nat.lt_add_left _ h, fun _ => h⟩ hloop
  exact hbound.2 rfl

/-! ### RESET -/

theorem strapsValid_iff (st : Straps) : strapsValid st = true ↔ 0 < st.clkHz.toInt ∧ 0 < st.outHz.toInt := by
  rw [strapsValid, Bool.and_eq_true, decide_eq_true_eq, decide_eq_true_eq]

theorem resetConfig_cfgOk (st : Straps) : (resetConfig st).cfgOk = strapsValid st := by
  unfold resetConfig
  split
  · next hv => exact hv.symm
  · next hv => exact (Bool.eq_false_of_not_eq_true hv).symm

/-- R21 after RESET: a valid latch has both rates positive, a failed one has both 0 (D33). -/
theorem resetConfig_ok (st : Straps) : (resetConfig st).Ok := by
  unfold resetConfig ConfigLatch.Ok
  split
  · next hv =>
    obtain ⟨hclk, hout⟩ := (strapsValid_iff st).1 hv
    simpa using ⟨hclk, hout⟩
  · exact ⟨rfl, rfl⟩

/-- With a valid configuration INC is positive. -/
theorem ConfigLatch.Ok.inc_pos {c : ConfigLatch} (h : c.Ok) (hc : c.cfgOk = true) : 0 < c.inc := by
  rw [ConfigLatch.Ok, if_pos hc] at h
  exact Nat.mul_pos (by decide) h.2

/-- RESET with any straps establishes the invariant. -/
theorem resetEngine_inv (P : Params) (st : Straps) : (resetEngine P st).Inv P where
  config := resetConfig_ok st
  toneCounter c := by simp [resetTone]
  envCounter := by simp [resetEnv]
  noiseCounter := by simp [resetNoise]
  lfsr := P.noiseSeed.isLt
  phase h := (resetConfig_ok st).inc_pos h
  mirroredLeft := resetFir_mirrored P.num
  mirroredRight := resetFir_mirrored P.num
  firIndexEqual := rfl
  firIndexMod := rfl
  dcIndexEqual := rfl
  finite _ h := by cases h
  noOutput _ := rfl

/-! ### Every command keeps the invariant -/

section InvKept
variable {P : Params} {e : Engine} (h : e.Inv P)
include h

/-- A write to one channel that keeps its counter in range keeps the invariant. -/
theorem Engine.Inv.setTone (c : Channel) {t : ToneChannel} (ht : t.counter.toNat ≤ 65534) : (e.setTone c t).Inv P :=
  { h with
    toneCounter := fun c' => by
      by_cases hc : c' = c
      · rw [hc, Engine.setTone_tone, Channels.get_set_same]
        exact ht
      · rw [Engine.setTone_tone, Channels.get_set_other _ hc]
        exact h.toneCounter c' }

/-- A new envelope state whose counter is in range keeps the invariant. -/
theorem Engine.Inv.setEnv {v : EnvState} (hv : v.counter.toNat ≤ 65534) : { e with env := v }.Inv P :=
  { h with envCounter := hv }

/-- A new noise period keeps the invariant. -/
theorem Engine.Inv.setNoisePeriod (p : BitVec 5) : { e with noise := { e.noise with period := p } }.Inv P :=
  { h with }

theorem Engine.Inv.generatorsBounded : e.GeneratorsBounded P := ⟨h.toneCounter, h.envCounter, h.noiseCounter, h.lfsr⟩

theorem Engine.Inv.firsAligned : e.FirsAligned 0 := ⟨h.mirroredLeft, h.mirroredRight, h.firIndexEqual, h.firIndexMod⟩

/-- ADVANCE keeps the invariant: the loop keeps the generators, the rings and the phase in their bounds, and the latch
holds a finite pair unless `fatal` was set with it. -/
theorem Engine.Inv.advance (hcfg : e.config.cfgOk = true) {fuel : Nat} {e' : Engine}
    (hloop : advanceLoop P fuel 0 e = some e') : (latchFir P e').Inv P := by
  have hconfig := advanceLoop_config hloop
  have hgen := h.generatorsBounded.advanceLoop hloop
  have hfir := h.firsAligned.advanceLoop hloop
  exact {
    config := by rw [latchFir_config, hconfig]; exact h.config
    toneCounter := hgen.toneCounter
    envCounter := hgen.envCounter
    noiseCounter := hgen.noiseCounter
    lfsr := hgen.lfsr
    phase := fun _ => by
      rw [latchFir_phase, latchFir_config]
      exact advanceLoop_phase_lt (h.phase hcfg) hloop
    mirroredLeft := hfir.mirroredLeft
    mirroredRight := hfir.mirroredRight
    firIndexEqual := hfir.indexEqual
    firIndexMod := hfir.indexMod
    dcIndexEqual := by rw [latchFir_dc, advanceLoop_dc hloop]; exact h.dcIndexEqual
    finite := fun hfatal _ => by
      rw [latchFir_fatal, Bool.or_eq_false_iff, Bool.not_eq_false'] at hfatal
      exact hfatal.2
    noOutput := fun hbad => by
      rw [latchFir_config, hconfig, hcfg] at hbad
      cases hbad }

/-- REMOVE_DC keeps the invariant: both DC indices move by one, and the latch holds a finite pair unless `fatal` was set
with it. -/
theorem Engine.Inv.removeDc : (filterOutput P.num e).Inv P :=
  { h with
    dcIndexEqual := Fin.ext (by
      rw [filterOutput_dc, dcPush, dcPush, DcState.slide_widx, DcState.slide_widx, h.dcIndexEqual])
    finite := fun hfatal _ => by
      rw [filterOutput_fatal, Bool.or_eq_false_iff, Bool.not_eq_false'] at hfatal
      exact hfatal.2 }

end InvKept

/-- Every command under a valid configuration keeps the invariant of the engine. -/
theorem CommandEffect.inv {P : Params} {i : Instr} {e e' : Engine} (heff : CommandEffect P i e e')
    (hcfg : e.config.cfgOk = true) (h : e.Inv P) : e'.Inv P := by
  cases heff with
  | unchanged => exact h
  | setTonePeriod c => exact h.setTone c (h.toneCounter c)
  | setPan c => exact h.setTone c (h.toneCounter c)
  | setVolume c => exact h.setTone c (h.toneCounter c)
  | setMixer c => exact h.setTone c (h.toneCounter c)
  | setNoisePeriod => exact h.setNoisePeriod _
  | setEnvPeriod => exact h.setEnv h.envCounter
  | setEnvShape => exact h.setEnv (Nat.zero_le 65534)
  | advance _ _ hloop => exact h.advance hcfg hloop
  | removeDc => exact h.removeDc

/-- Settles O59: a step is a RESET, which establishes the invariant, or leaves the engine alone, or has the effect of an
admitted command, each of which keeps it. -/
theorem stepKeepsInvariant : Obligations.StepKeepsInvariant := by
  intro s t hs hstep
  unfold State.Inv at hs ⊢
  obtain ⟨st, -, -, ht⟩ | ht | ⟨hcfg, -, i, heff⟩ := step_engine_cases hstep
  · rw [ht]
    exact resetEngine_inv Config.params st
  · rw [ht]
    exact hs
  · exact heff.inv hcfg hs

/-! ### The configuration latch -/

/-- No command writes the configuration latch. -/
theorem CommandEffect.config_eq {P : Params} {i : Instr} {e e' : Engine} (heff : CommandEffect P i e e') :
    e'.config = e.config := by
  cases heff with
  | advance _ _ hloop => rw [latchFir_config, advanceLoop_config hloop]
  | _ => rfl

/-- Settles O16: no command writes the latch, and RESET writes `resetConfig` of its straps. -/
theorem configLatchWrittenOnlyByReset : Obligations.ConfigLatchWrittenOnlyByReset := by
  constructor
  · intro s t hstep hnoReset
    obtain ⟨st, rest, hin, -⟩ | ht | ⟨-, -, i, heff⟩ := step_engine_cases hstep
    · exact absurd hin (hnoReset st rest)
    · rw [ht]
    · exact heff.config_eq
  · intro s t st rest hin hstep
    rw [step_of_reset hin, Host.Outcome.next.injEq] at hstep
    rw [← hstep, applyReset_engine, resetEngine_config, resetConfig_cfgOk, strapsValid_iff]
    exact ⟨Iff.rfl, resetConfig_ok st⟩

/-! ### Pan weights -/

/-- Under R6's range of SQRT both laws give weights in [0, 1] for every pan value in [0, 1]. -/
theorem panWeights_mem {P : Params} (hsqrt : P.SqrtInUnit) (eqp : Bool) {p : ℚ} (h0 : 0 ≤ p) (h1 : p ≤ 1) :
    (0 ≤ (panWeights P.withExact eqp p).1 ∧ (panWeights P.withExact eqp p).1 ≤ 1) ∧
    (0 ≤ (panWeights P.withExact eqp p).2 ∧ (panWeights P.withExact eqp p).2 ≤ 1) := by
  have hleft : 0 ≤ 1 - p ∧ 1 - p ≤ 1 := ⟨sub_nonneg.2 h1, sub_le_self 1 h0⟩
  cases eqp with
  | false => exact ⟨hleft, h0, h1⟩
  | true => exact ⟨hsqrt (1 - p) hleft.1 hleft.2, hsqrt p h0 h1⟩

/-- Settles O22: RESET clears the weights, and SET_PAN writes the weights of a clamped value to one channel. -/
theorem panWeightsStayInUnit : Obligations.PanWeightsStayInUnit := by
  refine fun P hsqrt => ⟨fun st c => ?_, fun ch eqp raw s t hs h => ?_⟩
  · rw [resetEngine_tone]
    exact ⟨le_rfl, zero_le_one, le_rfl, zero_le_one⟩
  · have heff := execSetPanWith_effect h
    generalize s.engine = e at hs heff
    generalize t.engine = e' at heff ⊢
    cases heff with
    | unchanged => exact hs
    | setPan c =>
      intro c'
      by_cases hc : c' = c
      · obtain ⟨h0, h1⟩ := panOf_mem raw
        obtain ⟨⟨hl0, hl1⟩, hr0, hr1⟩ := panWeights_mem hsqrt eqp h0 h1
        rw [hc, Engine.setTone_tone, Channels.get_set_same]
        exact ⟨hl0, hl1, hr0, hr1⟩
      · rw [Engine.setTone_tone, Channels.get_set_other _ hc]
        exact hs c'

/-! ### Exact numerics -/

/-- Where every pair is finite no command sets `fatal`: only the latching of a pair that is not finite does. -/
theorem CommandEffect.fatal_eq {P : Params} (hfinite : ∀ l r, pairFinite P.num l r = true) {i : Instr} {e e' : Engine}
    (heff : CommandEffect P i e e') : e'.fatal = e.fatal := by
  cases heff with
  | advance _ _ hloop => rw [latchFir_fatal, hfinite, advanceLoop_fatal hloop, Bool.not_true, Bool.or_false]
  | removeDc => rw [filterOutput_fatal, hfinite, Bool.not_true, Bool.or_false]
  | _ => rfl

/-- Settles O58: in exact numerics every pair is finite, so neither command sets `fatal`. -/
theorem exactNumericsNeverFatal : Obligations.ExactNumericsNeverFatal := by
  intro P s t hfatal h
  have hfinite : ∀ l r, pairFinite P.withExact.num l r = true := fun _ _ => rfl
  have hkeeps : t.engine.fatal = s.engine.fatal := by
    obtain h | h := h
    · exact (execAdvanceWith_effect h).fatal_eq hfinite
    · exact (execRemoveDcWith_effect h).fatal_eq hfinite
  rw [hkeeps, hfatal]

end Sys2Proof.Machine
end

section
/-! PROOFS of the statements about the internal arrays (20_memory.md). A ring position is the place `i % 192` of the FIR
buffer with its copy 192 further (R62 (a)). What a write does to the positions and how a tap reads one is said once;
the window of O50 and the 192 writes of O51 follow from these. -/

namespace Sys2Proof.Machine

/-! ### The positions of the FIR ring (R62) -/

/-- Both copies of ring position `i` hold `u`; positions count modulo 192. -/
def FirState.HoldsAt (f : FirState) (i : Nat) (u : Amp) : Prop :=
  f.buf[i % 192]'(by omega) = u ∧ f.buf[i % 192 + 192]'(by omega) = u

/-- A tap reads one of the two copies of its position: the first before the wrap, the second past it. -/
theorem FirState.HoldsAt.tap_eq {f : FirState} {i : Nat} {u : Amp} (h : f.HoldsAt i u) {k : Fin 192}
    (hi : i % 192 = (f.widx.val + k.val) % 192) : f.tap k = u := by
  obtain ⟨hfirst, hsecond⟩ := h
  have hw := f.widx.isLt
  have hk := k.isLt
  unfold FirState.tap
  by_cases hwrap : f.widx.val + k.val < 192
  · have hplace : f.widx.val + k.val = i % 192 := by omega
    simpa only [hplace] using hfirst
  · have hplace : f.widx.val + k.val = i % 192 + 192 := by omega
    simpa only [hplace] using hsecond

/-- In a mirrored buffer the position under a tap holds what the tap reads. -/
theorem FirState.Mirrored.holdsAt_tap {f : FirState} (h : f.Mirrored) (k : Fin 192) :
    f.HoldsAt (f.widx.val + k.val) (f.tap k) := by
  have hpos : f.HoldsAt (f.widx.val + k.val) (f.buf[(f.widx.val + k.val) % 192]'(by omega)) :=
    ⟨rfl, (h ⟨(f.widx.val + k.val) % 192, Nat.mod_lt _ (by decide)⟩).symm⟩
  rw [hpos.tap_eq rfl]
  exact hpos

theorem FirState.write_holdsAt_same (f : FirState) {i : Nat} (hi : i % 192 = f.widx.val) (v : Amp) :
    (f.write v).HoldsAt i v := by
  constructor
  · rw [FirState.write_buf, if_pos (.inl hi)]
  · rw [FirState.write_buf, if_pos (.inr (by rw [hi]))]

theorem FirState.HoldsAt.write_other {f : FirState} {i : Nat} {u : Amp} (h : f.HoldsAt i u)
    (hi : i % 192 ≠ f.widx.val) (v : Amp) : (f.write v).HoldsAt i u := by
  obtain ⟨hfirst, hsecond⟩ := h
  have hw := f.widx.isLt
  constructor
  · rw [FirState.write_buf, if_neg (by omega), hfirst]
  · rw [FirState.write_buf, if_neg (by omega), hsecond]

/-! ### The window (46_fir_decimator.md R196) -/

/-- Settles O50: tap 191 of the new window is the position just written, and the other taps are the positions of the old
taps 1 to 191, which the write leaves. -/
theorem firWindowSlidesByOne : Obligations.FirWindowSlidesByOne := by
  intro f v hmirror
  have hw := f.widx.isLt
  refine ⟨hmirror.write v, f.write_widx v, ?_, fun k => ?_⟩
  · refine (f.write_holdsAt_same (Nat.mod_eq_of_lt hw) v).tap_eq ?_
    rw [FirState.write_widx]
    change f.widx.val % 192 = ((f.widx.val + 1) % 192 + 191) % 192
    omega
  · have hk := k.isLt
    have hold : f.HoldsAt (f.widx.val + (k.val + 1)) (f.tap ⟨k.val + 1, by omega⟩) :=
      hmirror.holdsAt_tap ⟨k.val + 1, by omega⟩
    refine (hold.write_other (by omega) v).tap_eq ?_
    rw [FirState.write_widx]
    change (f.widx.val + (k.val + 1)) % 192 = ((f.widx.val + 1) % 192 + k.val) % 192
    omega

/-! ### The last 192 samples (46_fir_decimator.md R199) -/

theorem foldl_firWrite_widx (f : FirState) (samples : List Amp) :
    (samples.foldl firWrite f).widx.val = (f.widx.val + samples.length) % 192 := by
  induction samples generalizing f with
  | nil => exact (Nat.mod_eq_of_lt f.widx.isLt).symm
  | cons v samples ih =>
    rw [List.foldl_cons, ih, firWrite, FirState.write_widx, List.length_cons]
    omega

/-- At most 192 writes fill as many positions from the index on, in order: no write meets an earlier one's position. -/
theorem foldl_firWrite_holdsAt (f : FirState) (samples : List Amp) (hlen : samples.length ≤ 192) (j : Nat)
    (hj : j < samples.length) : (samples.foldl firWrite f).HoldsAt (f.widx.val + j) samples[j] := by
  induction samples using List.reverseRecOn with
  | nil => exact absurd hj (Nat.not_lt_zero j)
  | append_singleton samples v ih =>
    have hindex := foldl_firWrite_widx f samples
    rw [List.length_append, List.length_singleton] at hlen hj
    rw [List.foldl_append, List.foldl_cons, List.foldl_nil, firWrite]
    by_cases hlast : j < samples.length
    · rw [List.getElem_append_left hlast]
      exact (ih (by omega) hlast).write_other (by omega) v
    · obtain rfl : j = samples.length := by omega
      rw [List.getElem_concat_length rfl]
      exact FirState.write_holdsAt_same _ hindex.symm v

/-- After 192 writes tap `k` reads the `k`-th sample written: the index is back where it was. -/
theorem foldl_firWrite_tap (f : FirState) {samples : List Amp} (hlen : samples.length = 192) (k : Fin 192) :
    (samples.foldl firWrite f).tap k = samples[k.val]'(by have := k.isLt; omega) := by
  have hk := k.isLt
  refine (foldl_firWrite_holdsAt f samples hlen.le k.val (by omega)).tap_eq ?_
  rw [foldl_firWrite_widx, hlen]
  omega

/-- `acc(n)` of R199 as a fold over the first `n` taps in ascending order. -/
theorem firAcc_eq_foldl (P : Params) (f : FirState) (n : Nat) (hn : n ≤ 192) :
    firAcc P f n hn = (List.finRange n).foldl
      (fun acc k => P.num.add acc (P.num.mul (P.firCoef (k.castLE hn)) (f.tap (k.castLE hn)))) P.num.zero := by
  induction n with
  | zero => rfl
  | succ n ih =>
    rw [List.finRange_succ_last, List.foldl_append, List.foldl_map, firAcc, ih]
    rfl

/-- Settles O51: FirEval folds over the taps, and after 192 writes the taps are the samples written. -/
theorem firEvalWeighsTheLast192 : Obligations.FirEvalWeighsTheLast192 := by
  intro P f samples hlen
  rw [firEval, firAcc_eq_foldl]
  refine List.foldl_ext _ _ _ fun acc k _ => ?_
  rw [Fin.castLE_rfl, id, foldl_firWrite_tap f hlen]

end Sys2Proof.Machine
end

section
/-! PROOFS of the statements about the encoding (30_encoding.md). A word is its fields side by side (R80); a format
accepts a word under a condition on its fields (R81); `decodeRow` has one equation per row of the opcode map (R83). The
round trips and the masks follow row by row from these. -/

namespace Sys2Proof

/-! ### A word and its fields (R80) -/

theorem append_fields (w : CommandWord) :
    (fieldOP w ++ (fieldCH w ++ (fieldRSV w ++ (fieldF w ++ fieldARG w))) : BitVec (4 + (2 + (25 + (1 + 32))))) =
      w := by
  simp only [fieldOP, fieldCH, fieldRSV, fieldF, fieldARG]
  rw [BitVec.extractLsb'_append_extractLsb'_eq_extractLsb', BitVec.extractLsb'_append_extractLsb'_eq_extractLsb',
    BitVec.extractLsb'_append_extractLsb'_eq_extractLsb', BitVec.extractLsb'_append_extractLsb'_eq_extractLsb',
    BitVec.extractLsb'_eq_self]
  all_goals rfl

theorem wordOf_fields {w : CommandWord} (hRSV : fieldRSV w = 0#25) :
    wordOf (fieldOP w) (fieldCH w) (fieldF w) (fieldARG w) = w := by
  rw [wordOf, ← hRSV]
  exact append_fields w

theorem eq_wordOf_iff {w : CommandWord} {op : BitVec 4} {ch : BitVec 2} {f : BitVec 1} {arg : BitVec 32} :
    w = wordOf op ch f arg ↔
      fieldOP w = op ∧ fieldRSV w = 0#25 ∧ fieldCH w = ch ∧ fieldF w = f ∧ fieldARG w = arg := by
  constructor
  · rintro rfl
    simp
  · rintro ⟨rfl, hRSV, rfl, rfl, rfl⟩
    exact (wordOf_fields hRSV).symm

@[simp] theorem fieldOP_and (v w : CommandWord) : fieldOP (v &&& w) = fieldOP v &&& fieldOP w :=
  BitVec.extractLsb'_and

@[simp] theorem fieldCH_and (v w : CommandWord) : fieldCH (v &&& w) = fieldCH v &&& fieldCH w :=
  BitVec.extractLsb'_and

@[simp] theorem fieldRSV_and (v w : CommandWord) : fieldRSV (v &&& w) = fieldRSV v &&& fieldRSV w :=
  BitVec.extractLsb'_and

@[simp] theorem fieldF_and (v w : CommandWord) : fieldF (v &&& w) = fieldF v &&& fieldF w :=
  BitVec.extractLsb'_and

@[simp] theorem fieldARG_and (v w : CommandWord) : fieldARG (v &&& w) = fieldARG v &&& fieldARG w :=
  BitVec.extractLsb'_and

/-! ### The flag and the mixer bits (R82) -/

theorem ofBool_beq_one (f : BitVec 1) : BitVec.ofBool (f == 1#1) = f := by
  revert f
  decide

theorem beq_one_ofBool (b : Bool) : (BitVec.ofBool b == 1#1) = b := by
  revert b
  decide

/-- The bits of a mixer argument, in the order of R82. -/
theorem mixBits_bits (t n e : Bool) :
    (mixBits t n e).getLsbD 0 = t ∧ (mixBits t n e).getLsbD 1 = n ∧ (mixBits t n e).getLsbD 2 = e ∧
      (mixBits t n e).extractLsb' 3 29 = 0#29 := by
  revert t n e
  decide

/-- ARG[31:3] and ARG[2:0] side by side. -/
theorem append_high_low (arg : BitVec 32) :
    (arg.extractLsb' 3 29 ++ arg.extractLsb' 0 3 : BitVec (29 + 3)) = arg :=
  (BitVec.extractLsb'_append_extractLsb'_eq_extractLsb' rfl).trans BitVec.extractLsb'_eq_self

theorem append_low_bits (low : BitVec 3) :
    BitVec.ofBool (low.getLsbD 2) ++ (BitVec.ofBool (low.getLsbD 1) ++ BitVec.ofBool (low.getLsbD 0)) = low := by
  revert low
  decide

/-- A mixer argument with ARG[31:3] = 0 is that of its three bits. -/
theorem mixBits_getLsbD {arg : BitVec 32} (h : arg.extractLsb' 3 29 = 0#29) :
    mixBits (arg.getLsbD 0) (arg.getLsbD 1) (arg.getLsbD 2) = arg := by
  have hlow := append_low_bits (arg.extractLsb' 0 3)
  simp only [BitVec.getLsbD_extractLsb', Nat.zero_add, Nat.reduceLT, decide_true, Bool.true_and] at hlow
  rw [mixBits, hlow, ← h]
  exact append_high_low arg

/-- The mask of SET_MIXER keeps ARG[31:3]. -/
theorem and_mixerMask_eq_zero_iff (arg : BitVec 32) :
    arg &&& 0xFFFFFFF8#32 = 0#32 ↔ arg.extractLsb' 3 29 = 0#29 := by
  have hmask : (0xFFFFFFF8#32 : BitVec (29 + 3)) = BitVec.allOnes 29 ++ 0#3 := rfl
  have hzero : (0#32 : BitVec (29 + 3)) = 0#29 ++ 0#3 := rfl
  calc arg &&& 0xFFFFFFF8#32 = 0#32
      ↔ (arg.extractLsb' 3 29 ++ arg.extractLsb' 0 3) &&& (BitVec.allOnes 29 ++ 0#3) = 0#29 ++ 0#3 := by
        rw [append_high_low, ← hmask, ← hzero]
    _ ↔ arg.extractLsb' 3 29 = 0#29 := by
        rw [BitVec.and_append, BitVec.and_allOnes, BitVec.and_zero, BitVec.append_left_inj]

/-! ### What each format accepts (R81) -/

section Formats
variable {w : CommandWord} {i j : Instr}

theorem formatC_eq_ok_iff : formatC w i = .ok j ↔ fieldF w = 0#1 ∧ i = j := by
  by_cases hF : fieldF w = 0#1
  · simp [formatC, hF]
  · simp [formatC, hF]

theorem formatM_eq_ok_iff :
    formatM w i = .ok j ↔ fieldF w = 0#1 ∧ (fieldARG w).extractLsb' 3 29 = 0#29 ∧ i = j := by
  by_cases hF : fieldF w = 0#1
  · by_cases hARG : (fieldARG w).extractLsb' 3 29 = 0#29
    · simp [formatM, hF, hARG]
    · simp [formatM, hF, hARG]
  · simp [formatM, hF]

theorem formatS_eq_ok_iff : formatS w i = .ok j ↔ fieldCH w = 0#2 ∧ fieldF w = 0#1 ∧ i = j := by
  by_cases hCH : fieldCH w = 0#2
  · simp [formatS, hCH, formatC_eq_ok_iff]
  · simp [formatS, hCH]

theorem formatN_eq_ok_iff :
    formatN w i = .ok j ↔ fieldARG w = 0#32 ∧ fieldCH w = 0#2 ∧ fieldF w = 0#1 ∧ i = j := by
  by_cases hARG : fieldARG w = 0#32
  · simp [formatN, hARG, formatS_eq_ok_iff]
  · simp [formatN, hARG]

theorem decode_eq_ok_iff : decode w = .ok i ↔ fieldRSV w = 0#25 ∧ decodeRow w = .ok i := by
  by_cases hRSV : fieldRSV w = 0#25
  · simp [decode, hRSV]
  · simp [decode, hRSV]

end Formats

/-! ### The rows of the opcode map (R83) -/

section Rows
variable {w : CommandWord}

theorem decodeRow_setTonePeriod (h : fieldOP w = 1#4) :
    decodeRow w = formatC w (.setTonePeriod (channelOf (fieldCH w)) (s32 (fieldARG w))) := by
  rw [decodeRow, h]; rfl

theorem decodeRow_setPan (h : fieldOP w = 2#4) :
    decodeRow w = .ok (.setPan (channelOf (fieldCH w)) (fieldF w == 1#1) (s32 (fieldARG w))) := by
  rw [decodeRow, h]; rfl

theorem decodeRow_setVolume (h : fieldOP w = 3#4) :
    decodeRow w = formatC w (.setVolume (channelOf (fieldCH w)) (s32 (fieldARG w))) := by
  rw [decodeRow, h]; rfl

theorem decodeRow_setMixer (h : fieldOP w = 4#4) :
    decodeRow w = formatM w (.setMixer (channelOf (fieldCH w)) ((fieldARG w).getLsbD 0) ((fieldARG w).getLsbD 1)
      ((fieldARG w).getLsbD 2)) := by
  rw [decodeRow, h]; rfl

theorem decodeRow_setNoisePeriod (h : fieldOP w = 5#4) :
    decodeRow w = formatS w (.setNoisePeriod (s32 (fieldARG w))) := by
  rw [decodeRow, h]; rfl

theorem decodeRow_setEnvPeriod (h : fieldOP w = 6#4) :
    decodeRow w = formatS w (.setEnvPeriod (s32 (fieldARG w))) := by
  rw [decodeRow, h]; rfl

theorem decodeRow_setEnvShape (h : fieldOP w = 7#4) : decodeRow w = formatS w (.setEnvShape (s32 (fieldARG w))) := by
  rw [decodeRow, h]; rfl

theorem decodeRow_advance (h : fieldOP w = 8#4) : decodeRow w = formatN w .advance := by
  rw [decodeRow, h]; rfl

theorem decodeRow_removeDc (h : fieldOP w = 9#4) : decodeRow w = formatN w .removeDc := by
  rw [decodeRow, h]; rfl

theorem decodeRow_readSample (h : fieldOP w = 10#4) : decodeRow w = formatN w .readSample := by
  rw [decodeRow, h]; rfl

end Rows

/-! ### The round trips -/

theorem decode_wordOf (op : BitVec 4) (ch : BitVec 2) (f : BitVec 1) (arg : BitVec 32) :
    decode (wordOf op ch f arg) = decodeRow (wordOf op ch f arg) := by
  simp [decode]

/-- Settles O1, row by row: the word's fields satisfy the row's format, and each operand is read back from its field. -/
theorem decodeEncodeRoundTrip : Obligations.DecodeEncodeRoundTrip := by
  intro i hwf
  cases i with
  | setTonePeriod ch n =>
    rw [encode, decode_wordOf, decodeRow_setTonePeriod (fieldOP_wordOf ..), formatC_eq_ok_iff]
    simp [s32_argBits (n := n) hwf]
  | setPan ch eqp raw =>
    rw [encode, decode_wordOf, decodeRow_setPan (fieldOP_wordOf ..)]
    simp [s32_argBits (n := raw) hwf, beq_one_ofBool]
  | setVolume ch n =>
    rw [encode, decode_wordOf, decodeRow_setVolume (fieldOP_wordOf ..), formatC_eq_ok_iff]
    simp [s32_argBits (n := n) hwf]
  | setMixer ch t n e =>
    obtain ⟨ht, hn, he, hhigh⟩ := mixBits_bits t n e
    rw [encode, decode_wordOf, decodeRow_setMixer (fieldOP_wordOf ..), formatM_eq_ok_iff]
    simp only [fieldF_wordOf, fieldARG_wordOf, fieldCH_wordOf, channelOf_channelBits, ht, hn, he, hhigh, and_self]
  | setNoisePeriod n =>
    rw [encode, decode_wordOf, decodeRow_setNoisePeriod (fieldOP_wordOf ..), formatS_eq_ok_iff]
    simp [s32_argBits (n := n) hwf]
  | setEnvPeriod n =>
    rw [encode, decode_wordOf, decodeRow_setEnvPeriod (fieldOP_wordOf ..), formatS_eq_ok_iff]
    simp [s32_argBits (n := n) hwf]
  | setEnvShape n =>
    rw [encode, decode_wordOf, decodeRow_setEnvShape (fieldOP_wordOf ..), formatS_eq_ok_iff]
    simp [s32_argBits (n := n) hwf]
  | advance =>
    rw [encode, decode_wordOf, decodeRow_advance (fieldOP_wordOf ..), formatN_eq_ok_iff]
    simp
  | removeDc =>
    rw [encode, decode_wordOf, decodeRow_removeDc (fieldOP_wordOf ..), formatN_eq_ok_iff]
    simp
  | readSample =>
    rw [encode, decode_wordOf, decodeRow_readSample (fieldOP_wordOf ..), formatN_eq_ok_iff]
    simp

/-- The word built from what the fields of `w` were read as, when RSV = 0, is `w`. -/
theorem wordOf_eq_of_fields {w : CommandWord} {op : BitVec 4} {ch : BitVec 2} {f : BitVec 1} {arg : BitVec 32}
    (hRSV : fieldRSV w = 0#25) (hOP : (fieldOP w).toNat = op.toNat) (hCH : ch = fieldCH w) (hF : f = fieldF w)
    (hARG : arg = fieldARG w) : wordOf op ch f arg = w :=
  (eq_wordOf_iff.2 ⟨BitVec.eq_of_toNat_eq hOP, hRSV, hCH.symm, hF.symm, hARG.symm⟩).symm

/-- Settles O2, by the row the decoder took: its format fixes the fields the command does not carry. -/
theorem encodeDecodeRoundTrip : Obligations.EncodeDecodeRoundTrip := by
  intro w i hdecode
  obtain ⟨hRSV, hrow⟩ := decode_eq_ok_iff.1 hdecode
  have hCH := channelBits_channelOf (fieldCH w)
  have hARG := argBits_s32 (fieldARG w)
  have hfits := fitsArg_s32 (fieldARG w)
  unfold decodeRow at hrow
  split at hrow
  case h_1 hOP => -- SET_TONE_PERIOD
    obtain ⟨hF, rfl⟩ := formatC_eq_ok_iff.1 hrow
    exact ⟨wordOf_eq_of_fields hRSV hOP hCH hF.symm hARG, hfits⟩
  case h_2 hOP => -- SET_PAN
    cases hrow
    exact ⟨wordOf_eq_of_fields hRSV hOP hCH (ofBool_beq_one _) hARG, hfits⟩
  case h_3 hOP => -- SET_VOLUME
    obtain ⟨hF, rfl⟩ := formatC_eq_ok_iff.1 hrow
    exact ⟨wordOf_eq_of_fields hRSV hOP hCH hF.symm hARG, hfits⟩
  case h_4 hOP => -- SET_MIXER
    obtain ⟨hF, hhigh, rfl⟩ := formatM_eq_ok_iff.1 hrow
    exact ⟨wordOf_eq_of_fields hRSV hOP hCH hF.symm (mixBits_getLsbD hhigh), rfl⟩
  case h_5 hOP => -- SET_NOISE_PERIOD
    obtain ⟨hCH, hF, rfl⟩ := formatS_eq_ok_iff.1 hrow
    exact ⟨wordOf_eq_of_fields hRSV hOP hCH.symm hF.symm hARG, hfits⟩
  case h_6 hOP => -- SET_ENV_PERIOD
    obtain ⟨hCH, hF, rfl⟩ := formatS_eq_ok_iff.1 hrow
    exact ⟨wordOf_eq_of_fields hRSV hOP hCH.symm hF.symm hARG, hfits⟩
  case h_7 hOP => -- SET_ENV_SHAPE
    obtain ⟨hCH, hF, rfl⟩ := formatS_eq_ok_iff.1 hrow
    exact ⟨wordOf_eq_of_fields hRSV hOP hCH.symm hF.symm hARG, hfits⟩
  case h_8 hOP => -- ADVANCE
    obtain ⟨hARG, hCH, hF, rfl⟩ := formatN_eq_ok_iff.1 hrow
    exact ⟨wordOf_eq_of_fields hRSV hOP hCH.symm hF.symm hARG.symm, rfl⟩
  case h_9 hOP => -- REMOVE_DC
    obtain ⟨hARG, hCH, hF, rfl⟩ := formatN_eq_ok_iff.1 hrow
    exact ⟨wordOf_eq_of_fields hRSV hOP hCH.symm hF.symm hARG.symm, rfl⟩
  case h_10 hOP => -- READ_SAMPLE
    obtain ⟨hARG, hCH, hF, rfl⟩ := formatN_eq_ok_iff.1 hrow
    exact ⟨wordOf_eq_of_fields hRSV hOP hCH.symm hF.symm hARG.symm, rfl⟩
  case h_11 => cases hrow -- a reserved opcode

/-! ### The masks of the opcode map (R83) -/

theorem fieldOP_encode (i : Instr) : (fieldOP (encode i)).toNat = i.opcode := by
  cases i <;> exact congrArg BitVec.toNat (fieldOP_wordOf ..)

theorem opcode_of_decode {w : CommandWord} {i : Instr} (h : decode w = .ok i) : i.opcode = (fieldOP w).toNat := by
  obtain ⟨hencode, -⟩ := encodeDecodeRoundTrip w i h
  rw [← hencode, fieldOP_encode]

/-- A mask with all of OP and RSV selects the words of the opcode that the row's format accepts, when it has the bits of
CH, F and ARG that the format fixes. -/
theorem and_mask_eq_iff_decode {w mask : CommandWord} {op : BitVec 4} {row : Except Illegal Instr}
    (hOP : fieldOP mask = BitVec.allOnes 4) (hRSV : fieldRSV mask = BitVec.allOnes 25)
    (hrow : fieldOP w = op → decodeRow w = row)
    (hformat : (∃ i, row = .ok i) ↔
      fieldCH w &&& fieldCH mask = 0#2 ∧ fieldF w &&& fieldF mask = 0#1 ∧ fieldARG w &&& fieldARG mask = 0#32) :
    w &&& mask = wordOf op 0#2 0#1 0#32 ↔ ∃ i, decode w = .ok i ∧ i.opcode = op.toNat := by
  rw [eq_wordOf_iff, fieldOP_and, fieldRSV_and, fieldCH_and, fieldF_and, fieldARG_and, hOP, hRSV, BitVec.and_allOnes,
    BitVec.and_allOnes, ← hformat]
  constructor
  · rintro ⟨hop, hrsv, i, hi⟩
    have hdecode : decode w = .ok i := decode_eq_ok_iff.2 ⟨hrsv, (hrow hop).trans hi⟩
    exact ⟨i, hdecode, by rw [opcode_of_decode hdecode, hop]⟩
  · rintro ⟨i, hdecode, hi⟩
    have hop : fieldOP w = op := BitVec.eq_of_toNat_eq ((opcode_of_decode hdecode).symm.trans hi)
    obtain ⟨hrsv, hi⟩ := decode_eq_ok_iff.1 hdecode
    exact ⟨hop, hrsv, i, (hrow hop).symm.trans hi⟩

section FormatMasks
variable (w : CommandWord) (i : Instr)

theorem formatC_accepts_iff :
    (∃ j, formatC w i = .ok j) ↔
      fieldCH w &&& 0#2 = 0#2 ∧ fieldF w &&& BitVec.allOnes 1 = 0#1 ∧ fieldARG w &&& 0#32 = 0#32 := by
  simp only [formatC_eq_ok_iff, BitVec.and_allOnes, BitVec.and_zero, exists_and_left, exists_eq', and_true, true_and]

theorem formatP_accepts_iff :
    (∃ j, (Except.ok i : Except Illegal Instr) = .ok j) ↔
      fieldCH w &&& 0#2 = 0#2 ∧ fieldF w &&& 0#1 = 0#1 ∧ fieldARG w &&& 0#32 = 0#32 := by
  simp only [BitVec.and_zero, Except.ok.injEq, exists_eq', and_true]

theorem formatM_accepts_iff :
    (∃ j, formatM w i = .ok j) ↔
      fieldCH w &&& 0#2 = 0#2 ∧ fieldF w &&& BitVec.allOnes 1 = 0#1 ∧ fieldARG w &&& 0xFFFFFFF8#32 = 0#32 := by
  simp only [formatM_eq_ok_iff, and_mixerMask_eq_zero_iff, BitVec.and_allOnes, BitVec.and_zero, exists_and_left,
    exists_eq', and_true, true_and]

theorem formatS_accepts_iff :
    (∃ j, formatS w i = .ok j) ↔
      fieldCH w &&& BitVec.allOnes 2 = 0#2 ∧ fieldF w &&& BitVec.allOnes 1 = 0#1 ∧ fieldARG w &&& 0#32 = 0#32 := by
  simp only [formatS_eq_ok_iff, BitVec.and_allOnes, BitVec.and_zero, exists_and_left, exists_eq', and_true]

theorem formatN_accepts_iff :
    (∃ j, formatN w i = .ok j) ↔
      fieldCH w &&& BitVec.allOnes 2 = 0#2 ∧ fieldF w &&& BitVec.allOnes 1 = 0#1 ∧
        fieldARG w &&& BitVec.allOnes 32 = 0#32 := by
  simp only [formatN_eq_ok_iff, BitVec.and_allOnes, exists_and_left, exists_eq', and_true]
  exact and_rotate

end FormatMasks

/-- Settles O3, row by row: the row's mask has the bits its format fixes. -/
theorem decodeSelectsOpcodeMapRow : Obligations.DecodeSelectsOpcodeMapRow := by
  intro op pattern mask hmem w
  simp only [opcodeMap, List.mem_cons, List.not_mem_nil, or_false, Prod.mk.injEq] at hmem
  obtain ⟨rfl, rfl, rfl⟩ | ⟨rfl, rfl, rfl⟩ | ⟨rfl, rfl, rfl⟩ | ⟨rfl, rfl, rfl⟩ | ⟨rfl, rfl, rfl⟩ | ⟨rfl, rfl, rfl⟩ |
    ⟨rfl, rfl, rfl⟩ | ⟨rfl, rfl, rfl⟩ | ⟨rfl, rfl, rfl⟩ | ⟨rfl, rfl, rfl⟩ := hmem
  · exact and_mask_eq_iff_decode (op := 0x1#4) rfl rfl decodeRow_setTonePeriod (formatC_accepts_iff w _)
  · exact and_mask_eq_iff_decode (op := 0x2#4) rfl rfl decodeRow_setPan (formatP_accepts_iff w _)
  · exact and_mask_eq_iff_decode (op := 0x3#4) rfl rfl decodeRow_setVolume (formatC_accepts_iff w _)
  · exact and_mask_eq_iff_decode (op := 0x4#4) rfl rfl decodeRow_setMixer (formatM_accepts_iff w _)
  · exact and_mask_eq_iff_decode (op := 0x5#4) rfl rfl decodeRow_setNoisePeriod (formatS_accepts_iff w _)
  · exact and_mask_eq_iff_decode (op := 0x6#4) rfl rfl decodeRow_setEnvPeriod (formatS_accepts_iff w _)
  · exact and_mask_eq_iff_decode (op := 0x7#4) rfl rfl decodeRow_setEnvShape (formatS_accepts_iff w _)
  · exact and_mask_eq_iff_decode (op := 0x8#4) rfl rfl decodeRow_advance (formatN_accepts_iff w _)
  · exact and_mask_eq_iff_decode (op := 0x9#4) rfl rfl decodeRow_removeDc (formatN_accepts_iff w _)
  · exact and_mask_eq_iff_decode (op := 0xA#4) rfl rfl decodeRow_readSample (formatN_accepts_iff w _)

end Sys2Proof
end

section
/-! PROOFS of the statements about the tone generator (40_tone_generator.md). ToneStep has two cases (R112), stated once. A
run of ticks then counts until the period is reached, and a full interval of max(P, 1) ticks from a cleared counter
toggles the level and clears the counter again; the statements about k ticks cut k into such intervals. -/

namespace Sys2Proof.Machine

/-! ### The two cases of ToneStep (R112) -/

/-- The rollover: the level toggles. -/
theorem toneStep_of_period_le {t : ToneChannel} (h : t.period.toNat ≤ t.counter.toNat + 1) :
    toneStep t = { t with counter := 0#16, level := !t.level } := if_pos h

/-- Below the period a tick only counts. -/
theorem toneStep_of_lt_period {t : ToneChannel} (h : t.counter.toNat + 1 < t.period.toNat) :
    toneStep t = { t with counter := BitVec.ofNat 16 (t.counter.toNat + 1) } := if_neg h.not_ge

/-! ### Runs of ticks -/

/-- While the counter stays below the period, ticks only count. Where it starts at or above the period the bound
`counter + 1` leaves the run of no ticks. -/
theorem iterate_toneStep_counts (t : ToneChannel) {k : Nat}
    (h : t.counter.toNat + k < max t.period.toNat (t.counter.toNat + 1)) :
    toneStep^[k] t = { t with counter := BitVec.ofNat 16 (t.counter.toNat + k) } := by
  induction k with
  | zero => simp
  | succ k ih =>
    have hperiod := t.period.isLt
    have hcounter : (BitVec.ofNat 16 (t.counter.toNat + k)).toNat = t.counter.toNat + k := Nat.mod_eq_of_lt (by omega)
    have hbelow : (BitVec.ofNat 16 (t.counter.toNat + k)).toNat + 1 < t.period.toNat := by omega
    rw [Function.iterate_succ_apply', ih (by omega), ← Nat.add_assoc]
    exact (toneStep_of_lt_period hbelow).trans (by rw [hcounter])

/-- As many ticks from a cleared counter as stay below the first rollover give their own number as the counter. -/
theorem iterate_toneStep_of_lt {t : ToneChannel} (hclear : t.counter = 0#16) {k : Nat} (h : k < max t.period.toNat 1) :
    toneStep^[k] t = { t with counter := BitVec.ofNat 16 k } := by
  simpa [hclear] using iterate_toneStep_counts t (k := k) (by simpa [hclear] using h)

/-- One interval of R113: from a cleared counter, max(P, 1) ticks toggle the level and clear the counter again. -/
theorem iterate_toneStep_interval {t : ToneChannel} (hclear : t.counter = 0#16) :
    toneStep^[max t.period.toNat 1] t = { t with counter := 0#16, level := !t.level } := by
  have hperiod := t.period.isLt
  obtain ⟨n, hn⟩ : ∃ n, max t.period.toNat 1 = n + 1 := Nat.exists_eq_add_one.2 (by omega)
  have hcounter : (BitVec.ofNat 16 n).toNat = n := Nat.mod_eq_of_lt (by omega)
  have hreached : t.period.toNat ≤ (BitVec.ofNat 16 n).toNat + 1 := by omega
  rw [hn, Function.iterate_succ_apply', iterate_toneStep_of_lt hclear (by omega)]
  exact toneStep_of_period_le hreached

/-- One more toggle changes the parity of the number of toggles. -/
theorem not_xor_odd (level : Bool) (q : Nat) :
    (!level ^^ decide (q % 2 = 1)) = (level ^^ decide ((q + 1) % 2 = 1)) := by
  have hparity : (q + 1) % 2 = 1 ↔ ¬ q % 2 = 1 := by omega
  simp only [hparity, decide_not, Bool.not_xor, Bool.xor_not]

/-- Settles O29, by strong induction on the ticks: fewer than an interval only count, and a full interval toggles the
level once and leaves a cleared counter for the rest. -/
theorem toneToggleInterval : Obligations.ToneToggleInterval := by
  intro t k hclear
  induction k using Nat.strong_induction_on generalizing t with
  | _ k ih =>
    have hperiod := t.period.isLt
    by_cases hk : k < max t.period.toNat 1
    · rw [iterate_toneStep_of_lt hclear hk, Nat.mod_eq_of_lt hk, Nat.div_eq_of_lt hk]
      exact ⟨Nat.mod_eq_of_lt (by omega), (Bool.xor_false _).symm⟩
    · obtain ⟨m, rfl⟩ := Nat.exists_eq_add_of_le' (Nat.le_of_not_lt hk)
      rw [Function.iterate_add_apply, iterate_toneStep_interval hclear, Nat.add_mod_right,
        Nat.add_div_right m (by omega), ← not_xor_odd]
      exact ih m (by omega) _ rfl

/-- Settles O30: a period of at most counter + 1 rolls over at the first tick, from where O29 counts; below a larger
one the ticks only count. -/
theorem tonePeriodChangedWhileCounting : Obligations.TonePeriodChangedWhileCounting := by
  refine fun t k => ⟨fun hlow => ?_, fun hhigh => ?_⟩
  · rw [Function.iterate_succ_apply, toneStep_of_period_le hlow]
    exact toneToggleInterval _ k rfl
  · have hperiod := t.period.isLt
    rw [iterate_toneStep_counts t (lt_max_of_lt_left hhigh)]
    exact ⟨Nat.mod_eq_of_lt (by omega), rfl⟩

end Sys2Proof.Machine
end

section
/-! PROOFS of the statements about the noise generator (41_noise_generator.md). NoiseStep has two cases (R122), stated
once. From a cleared counter, max(2N, 1) ticks are exactly one shift, so k ticks are floor(k / max(2N, 1)) shifts and then
a count of the remaining ticks; the statements read the register, the counter and the bit off that form. -/

namespace Sys2Proof.Machine

variable {P : Params}

/-! ### The two cases of NoiseStep (R122) -/

/-- The rollover: the register shifts. -/
theorem noiseStep_of_period_le {n : NoiseState} (h : 2 * n.period.toNat ≤ n.counter.toNat + 1) :
    noiseStep P n = noiseShift P n := if_pos h

/-- Below twice the period a tick only counts. -/
theorem noiseStep_of_lt_period {n : NoiseState} (h : n.counter.toNat + 1 < 2 * n.period.toNat) :
    noiseStep P n = { n with counter := BitVec.ofNat 6 (n.counter.toNat + 1) } := if_neg h.not_ge

/-! ### Runs of ticks -/

/-- As many ticks from a cleared counter as stay below the first rollover give their own number as the counter. -/
theorem iterate_noiseStep_of_lt {n : NoiseState} (hclear : n.counter = 0#6) {k : Nat}
    (h : k < max (2 * n.period.toNat) 1) :
    (noiseStep P)^[k] n = { n with counter := BitVec.ofNat 6 k } := by
  induction k with
  | zero => simp [← hclear]
  | succ k ih =>
    have hperiod := n.period.isLt
    have hcounter : (BitVec.ofNat 6 k).toNat = k := Nat.mod_eq_of_lt (by omega)
    have hbelow : (BitVec.ofNat 6 k).toNat + 1 < 2 * n.period.toNat := by omega
    rw [Function.iterate_succ_apply', ih (by omega)]
    exact (noiseStep_of_lt_period hbelow).trans (by rw [hcounter])

/-- One interval of R124: from a cleared counter, max(2N, 1) ticks are one shift. -/
theorem iterate_noiseStep_interval {n : NoiseState} (hclear : n.counter = 0#6) :
    (noiseStep P)^[max (2 * n.period.toNat) 1] n = noiseShift P n := by
  have hperiod := n.period.isLt
  obtain ⟨m, hm⟩ : ∃ m, max (2 * n.period.toNat) 1 = m + 1 := Nat.exists_eq_add_one.2 (by omega)
  have hcounter : (BitVec.ofNat 6 m).toNat = m := Nat.mod_eq_of_lt (by omega)
  have hreached : 2 * n.period.toNat ≤ (BitVec.ofNat 6 m).toNat + 1 := by omega
  rw [hm, Function.iterate_succ_apply', iterate_noiseStep_of_lt hclear (by omega)]
  exact noiseStep_of_period_le hreached

/-- k ticks from a cleared counter: a shift per full interval, then a count of the rest. By strong induction on the ticks,
an interval at a time. -/
theorem iterate_noiseStep_eq_shifts {n : NoiseState} (hclear : n.counter = 0#6) (k : Nat) :
    (noiseStep P)^[k] n =
      { (noiseShift P)^[k / max (2 * n.period.toNat) 1] n with
        counter := BitVec.ofNat 6 (k % max (2 * n.period.toNat) 1) } := by
  induction k using Nat.strong_induction_on generalizing n with
  | _ k ih =>
    by_cases hk : k < max (2 * n.period.toNat) 1
    · rw [iterate_noiseStep_of_lt hclear hk, Nat.mod_eq_of_lt hk, Nat.div_eq_of_lt hk, Function.iterate_zero_apply]
    · obtain ⟨m, rfl⟩ := Nat.exists_eq_add_of_le' (Nat.le_of_not_lt hk)
      rw [Function.iterate_add_apply, iterate_noiseStep_interval hclear, Nat.add_mod_right,
        Nat.add_div_right m (by omega), Function.iterate_succ_apply]
      exact ih m (by omega) rfl

/-! ### The register and the bit after a number of shifts -/

/-- A shift applies LFSR_NEXT to the register. -/
@[simp] theorem lfsrBits_noiseShift (n : NoiseState) : lfsrBits P (noiseShift P n) = P.lfsrNext (lfsrBits P n) := by
  simp only [lfsrBits, noiseShift, BitVec.ofNat_toNat, BitVec.setWidth_eq]

theorem lfsrBits_iterate_noiseShift (n : NoiseState) (q : Nat) :
    lfsrBits P ((noiseShift P)^[q] n) = P.lfsrNext^[q] (lfsrBits P n) :=
  Function.Semiconj.iterate_right lfsrBits_noiseShift q n

/-- After at least one shift the bit is LFSR_OUT of the register last written. -/
theorem bit_iterate_noiseShift (n : NoiseState) {q : Nat} (hq : 0 < q) :
    ((noiseShift P)^[q] n).bit = P.lfsrOut (P.lfsrNext^[q] (lfsrBits P n)) := by
  obtain ⟨m, rfl⟩ := Nat.exists_eq_add_one.2 hq
  rw [Function.iterate_succ_apply', Function.iterate_succ_apply', ← lfsrBits_iterate_noiseShift]
  rfl

/-- The register at RESET is the seed (R30). -/
@[simp] theorem lfsrBits_resetNoise (N : BitVec 5) :
    lfsrBits P { resetNoise P with period := N } = P.noiseSeed := by
  simp only [lfsrBits, resetNoise, BitVec.ofNat_toNat, BitVec.setWidth_eq]

/-- The noise bit 0 gates off every channel with noise enabled (R158). -/
theorem gate_false_of_noise_enabled {t : ToneChannel} (hn : t.nOff = false) : gate t false = false := by
  simp [gate, hn]

/-! ### The statements -/

/-- Settles O32: the counter and the register of `iterate_noiseStep_eq_shifts`; the remainder is below 64, so the 6-bit
counter holds it. -/
theorem noiseShiftInterval : Obligations.NoiseShiftInterval := by
  intro P n k hclear
  have hperiod := n.period.isLt
  have hrest : k % max (2 * n.period.toNat) 1 < max (2 * n.period.toNat) 1 := Nat.mod_lt k (by omega)
  rw [iterate_noiseStep_eq_shifts hclear]
  exact ⟨Nat.mod_eq_of_lt (by omega), lfsrBits_iterate_noiseShift n _⟩

/-- Settles O33: before the first rollover the ticks only count, so the bit is still RESET's 0; from there on at least one
shift has written it. -/
theorem noiseBitZeroBeforeFirstShift : Obligations.NoiseBitZeroBeforeFirstShift := by
  refine fun P N k => ⟨fun hbefore => ?_, fun hfrom => ?_⟩
  · rw [iterate_noiseStep_of_lt rfl hbefore]
    exact ⟨rfl, fun t hn => gate_false_of_noise_enabled hn⟩
  · have hshifts : 0 < k / max (2 * N.toNat) 1 := Nat.div_pos hfrom (by omega)
    rw [iterate_noiseStep_eq_shifts rfl]
    exact (bit_iterate_noiseShift _ hshifts).trans (by rw [lfsrBits_resetNoise])

end Sys2Proof.Machine
end

section
/-! PROOFS of the statements about the envelope generator (42_envelope_generator.md). EnvStep has two cases (R133),
stated once. From a cleared counter, k ticks are floor(k / max(P, 1)) runs of EnvAdvance and then a count of the remaining
ticks. EnvAdvance runs along segments of 32 values, and the shape's flags decide only what follows a segment (R135): the
ramp of a shape has a closed form in its flags, and the table of R136 is that form at the default flags. -/

namespace Sys2Proof.Machine

variable {P : Params}

/-! ### The two cases of EnvStep (R133) -/

/-- The rollover: the counter is cleared and the ramp advances. -/
theorem envStep_of_period_le {e : EnvState} (h : e.period.toNat ≤ e.counter.toNat + 1) :
    envStep P e = envAdvance P { e with counter := 0#16 } := if_pos h

/-- Below the period a tick only counts. -/
theorem envStep_of_lt_period {e : EnvState} (h : e.counter.toNat + 1 < e.period.toNat) :
    envStep P e = { e with counter := BitVec.ofNat 16 (e.counter.toNat + 1) } := if_neg h.not_ge

/-! ### EnvAdvance leaves the period and the counter alone -/

theorem envBoundary_period (e : EnvState) : (envBoundary P e).period = e.period := by
  unfold envBoundary
  split_ifs <;> rfl

theorem envAdvance_period (e : EnvState) : (envAdvance P e).period = e.period := by
  unfold envAdvance
  split
  · rfl
  · split <;> split
    · rfl
    · exact envBoundary_period e
    · rfl
    · exact envBoundary_period e

/-! ### Runs of ticks -/

/-- As many ticks from a cleared counter as stay below the first rollover give their own number as the counter. -/
theorem iterate_envStep_of_lt {e : EnvState} (hclear : e.counter = 0#16) {k : Nat} (h : k < max e.period.toNat 1) :
    (envStep P)^[k] e = { e with counter := BitVec.ofNat 16 k } := by
  induction k with
  | zero => simp [← hclear]
  | succ k ih =>
    have hperiod := e.period.isLt
    have hcounter : (BitVec.ofNat 16 k).toNat = k := Nat.mod_eq_of_lt (by omega)
    have hbelow : (BitVec.ofNat 16 k).toNat + 1 < e.period.toNat := by omega
    rw [Function.iterate_succ_apply', ih (by omega)]
    exact (envStep_of_lt_period hbelow).trans (by rw [hcounter])

/-- One interval of R138: from a cleared counter, max(P, 1) ticks are one run of EnvAdvance. -/
theorem iterate_envStep_interval {e : EnvState} (hclear : e.counter = 0#16) :
    (envStep P)^[max e.period.toNat 1] e = envAdvance P e := by
  have hperiod := e.period.isLt
  obtain ⟨n, hn⟩ : ∃ n, max e.period.toNat 1 = n + 1 := Nat.exists_eq_add_one.2 (by omega)
  have hcounter : (BitVec.ofNat 16 n).toNat = n := Nat.mod_eq_of_lt (by omega)
  have hreached : e.period.toNat ≤ (BitVec.ofNat 16 n).toNat + 1 := by omega
  rw [hn, Function.iterate_succ_apply', iterate_envStep_of_lt hclear (by omega)]
  exact (envStep_of_period_le hreached).trans (by rw [← hclear])

/-- k ticks from a cleared counter: a run of EnvAdvance per full interval, then a count of the rest. By strong induction
on the ticks, an interval at a time. -/
theorem iterate_envStep_eq_advances {e : EnvState} (hclear : e.counter = 0#16) (k : Nat) :
    (envStep P)^[k] e =
      { (envAdvance P)^[k / max e.period.toNat 1] e with
        counter := BitVec.ofNat 16 (k % max e.period.toNat 1) } := by
  induction k using Nat.strong_induction_on generalizing e with
  | _ k ih =>
    by_cases hk : k < max e.period.toNat 1
    · rw [iterate_envStep_of_lt hclear hk, Nat.mod_eq_of_lt hk, Nat.div_eq_of_lt hk, Function.iterate_zero_apply]
    · obtain ⟨m, rfl⟩ := Nat.exists_eq_add_of_le' (Nat.le_of_not_lt hk)
      rw [Function.iterate_add_apply, iterate_envStep_interval hclear, Nat.add_mod_right,
        Nat.add_div_right m (by omega), Function.iterate_succ_apply,
        ih m (by omega) ((envAdvance_counter P e).trans hclear), envAdvance_period]

theorem iterate_envAdvance_counter (e : EnvState) (q : Nat) : ((envAdvance P)^[q] e).counter = e.counter := by
  induction q with
  | zero => rfl
  | succ q ih => rw [Function.iterate_succ_apply', envAdvance_counter, ih]

/-- Settles O35: the counter and the rest of the envelope in `iterate_envStep_eq_advances`; the remainder is below 65536,
so the 16-bit counter holds it, and EnvAdvance leaves the counter cleared. -/
theorem envRolloverInterval : Obligations.EnvRolloverInterval := by
  intro P e k hclear
  have hperiod := e.period.isLt
  have hrest : k % max e.period.toNat 1 < max e.period.toNat 1 := Nat.mod_lt k (by omega)
  rw [iterate_envStep_eq_advances hclear]
  refine ⟨Nat.mod_eq_of_lt (by omega), ?_⟩
  rw [← hclear, ← iterate_envAdvance_counter (P := P) e (k / max e.period.toNat 1)]

/-! ### EnvAdvance along a segment (R134) -/

/-- The value at step `j` of the 32 steps of a segment in the direction `d`. -/
def EnvDir.ramp : EnvDir → Nat → Nat
  | .down, j => 31 - j
  | .up, j => j

theorem EnvDir.ramp_lt (d : EnvDir) {j : Nat} (hj : j < 32) : d.ramp j < 2 ^ 5 := by
  cases d <;> simp only [EnvDir.ramp] <;> omega

/-- `e` is at step `j` of a running segment. -/
structure EnvState.AtStep (e : EnvState) (j : Nat) : Prop where
  running : e.frozen = false
  value : e.value = BitVec.ofNat 5 (e.dir.ramp j)

theorem envAdvance_of_frozen {e : EnvState} (h : e.frozen = true) : envAdvance P e = e := if_pos h

theorem iterate_envAdvance_of_frozen {e : EnvState} (h : e.frozen = true) (q : Nat) : (envAdvance P)^[q] e = e :=
  Function.iterate_fixed (envAdvance_of_frozen h) q

/-- Inside a segment EnvAdvance goes one step further. -/
theorem EnvState.AtStep.envAdvance_eq {e : EnvState} {j : Nat} (h : e.AtStep j) (hj : j < 31) :
    envAdvance P e = { e with value := BitVec.ofNat 5 (e.dir.ramp (j + 1)) } := by
  obtain ⟨hrunning, hvalue⟩ := h
  cases hdir : e.dir with
  | down =>
    rw [hdir, EnvDir.ramp] at hvalue
    have hinside : 0 < e.value.toNat := by bv_omega
    have hnext : e.value - 1#5 = BitVec.ofNat 5 (31 - (j + 1)) := by bv_omega
    simp [envAdvance, EnvDir.ramp, hrunning, hdir, hinside, hnext]
  | up =>
    rw [hdir, EnvDir.ramp] at hvalue
    have hinside : e.value.toNat < 31 := by bv_omega
    have hnext : e.value + 1#5 = BitVec.ofNat 5 (j + 1) := by bv_omega
    simp [envAdvance, EnvDir.ramp, hrunning, hdir, hinside, hnext]

/-- At the end of a segment EnvAdvance is EnvBoundary. -/
theorem EnvState.AtStep.envAdvance_eq_boundary {e : EnvState} (h : e.AtStep 31) : envAdvance P e = envBoundary P e := by
  obtain ⟨hrunning, hvalue⟩ := h
  cases hdir : e.dir <;> simp [envAdvance, EnvDir.ramp, hrunning, hdir, hvalue]

theorem EnvState.AtStep.iterate_envAdvance_of_lt {e : EnvState} (h : e.AtStep 0) {k : Nat} (hk : k < 32) :
    (envAdvance P)^[k] e = { e with value := BitVec.ofNat 5 (e.dir.ramp k) } := by
  induction k with
  | zero => rw [← h.value, Function.iterate_zero_apply]
  | succ k ih =>
    rw [Function.iterate_succ_apply', ih (by omega)]
    exact EnvState.AtStep.envAdvance_eq ⟨h.running, rfl⟩ (by omega)

/-- A whole segment: 32 runs of EnvAdvance are EnvBoundary at the segment's last value. -/
theorem EnvState.AtStep.iterate_envAdvance_segment {e : EnvState} (h : e.AtStep 0) :
    (envAdvance P)^[32] e = envBoundary P { e with value := BitVec.ofNat 5 (e.dir.ramp 31) } := by
  rw [Function.iterate_succ_apply', h.iterate_envAdvance_of_lt (by omega)]
  exact EnvState.AtStep.envAdvance_eq_boundary ⟨h.running, rfl⟩

/-! ### What the flags make of a whole segment (R135) -/

section Segment
variable {e : EnvState} (h : e.AtStep 0)
include h

theorem EnvState.AtStep.segment_once (hcont : (P.envFlags e.shape).cont = false) :
    (envAdvance P)^[32] e = { e with value := 0#5, frozen := true } := by
  rw [h.iterate_envAdvance_segment, envBoundary, if_pos hcont]

theorem EnvState.AtStep.segment_hold (hcont : (P.envFlags e.shape).cont = true)
    (hhold : (P.envFlags e.shape).hold = true) :
    (envAdvance P)^[32] e =
      { e with
        value := BitVec.ofNat 5 (if (P.envFlags e.shape).alt then e.dir.ramp 0 else e.dir.ramp 31)
        frozen := true } := by
  rw [h.iterate_envAdvance_segment]
  cases halt : (P.envFlags e.shape).alt <;> cases e.dir <;>
    simp [envBoundary, EnvDir.ramp, hcont, hhold, halt]

theorem EnvState.AtStep.segment_alternate (hcont : (P.envFlags e.shape).cont = true)
    (hhold : (P.envFlags e.shape).hold = false) (halt : (P.envFlags e.shape).alt = true) :
    (envAdvance P)^[32] e = { e with value := BitVec.ofNat 5 (e.dir.ramp 31), dir := e.dir.flip } := by
  rw [h.iterate_envAdvance_segment]
  simp [envBoundary, hcont, hhold, halt]

theorem EnvState.AtStep.segment_repeat (hcont : (P.envFlags e.shape).cont = true)
    (hhold : (P.envFlags e.shape).hold = false) (halt : (P.envFlags e.shape).alt = false) :
    (envAdvance P)^[32] e = e := by
  rw [h.iterate_envAdvance_segment]
  have hstart : e.value = if e.dir = .up then 0#5 else 31#5 := h.value.trans (by cases e.dir <;> rfl)
  simp [envBoundary, hcont, hhold, halt, ← hstart]

end Segment

/-- One segment ends where the segment in the other direction starts. -/
theorem EnvDir.ramp_flip_zero (d : EnvDir) : d.flip.ramp 0 = d.ramp 31 := by
  cases d <;> rfl

/-! ### The ramp of a shape, for any flags -/

/-- The value after `k` runs of EnvAdvance from the start of a segment in the direction `d` under the flags `f`: the
segment, and then 0, or the value held, or segments in alternating directions, or the segment again (R135). -/
def envRamp (f : EnvFlags) (d : EnvDir) (k : Nat) : Nat :=
  if k < 32 then d.ramp k
  else if f.cont = false then 0
  else if f.hold then (if f.alt then d.ramp 0 else d.ramp 31)
  else if f.alt then (if k % 64 < 32 then d.ramp (k % 64) else d.flip.ramp (k % 64 - 32))
  else d.ramp (k % 32)

theorem envRamp_of_lt (f : EnvFlags) (d : EnvDir) {k : Nat} (hk : k < 32) : envRamp f d k = d.ramp k := if_pos hk

/-- The ramp one segment later: what the flags make of the segment's end, or the ramp of the segment that follows. -/
theorem envRamp_add_segment (f : EnvFlags) (d : EnvDir) (m : Nat) :
    envRamp f d (m + 32) =
      if f.cont = false then 0
      else if f.hold then (if f.alt then d.ramp 0 else d.ramp 31)
      else envRamp f (if f.alt then d.flip else d) m := by
  cases hcont : f.cont with
  | false => simp [envRamp, hcont]
  | true =>
    cases hhold : f.hold with
    | true => simp [envRamp, hcont, hhold]
    | false =>
      cases halt : f.alt with
      | true =>
        simp only [envRamp, hcont, hhold, halt, Bool.true_eq_false, Bool.false_eq_true, reduceIte]
        cases d <;> simp only [EnvDir.ramp, EnvDir.flip] <;> split_ifs <;> omega
      | false => simp +contextual [envRamp, hcont, hhold, halt, Nat.mod_eq_of_lt]

/-- By strong induction on the rollovers, a segment at a time: after it the envelope is frozen, or starts a segment. -/
theorem EnvState.AtStep.iterate_envAdvance_value {e : EnvState} (h : e.AtStep 0) (k : Nat) :
    ((envAdvance P)^[k] e).value.toNat = envRamp (P.envFlags e.shape) e.dir k := by
  induction k using Nat.strong_induction_on generalizing e with
  | _ k ih =>
    by_cases hk : k < 32
    · rw [h.iterate_envAdvance_of_lt hk, envRamp_of_lt _ _ hk]
      exact Nat.mod_eq_of_lt (e.dir.ramp_lt hk)
    obtain ⟨m, rfl⟩ := Nat.exists_eq_add_of_le' (Nat.le_of_not_lt hk)
    rw [Function.iterate_add_apply, envRamp_add_segment]
    cases hcont : (P.envFlags e.shape).cont with
    | false =>
      rw [h.segment_once hcont, iterate_envAdvance_of_frozen rfl]
      rfl
    | true =>
      cases hhold : (P.envFlags e.shape).hold with
      | true =>
        rw [h.segment_hold hcont hhold, iterate_envAdvance_of_frozen rfl]
        cases (P.envFlags e.shape).alt <;> cases e.dir <;> rfl
      | false =>
        cases halt : (P.envFlags e.shape).alt with
        | true =>
          rw [h.segment_alternate hcont hhold halt, ← e.dir.ramp_flip_zero]
          exact ih m (by omega) ⟨h.running, rfl⟩
        | false =>
          rw [h.segment_repeat hcont hhold halt]
          exact ih m (by omega) h

/-! ### The ramps of the default flags (R136, R139) -/

theorem envRestart_atStep (shape : BitVec 4) (e : EnvState) : (envRestart P shape e).AtStep 0 := by
  refine ⟨rfl, ?_⟩
  unfold envRestart
  split <;> rfl

/-- The table of R136 is the ramp of the default flags, shape by shape. -/
theorem envRamp_defaultEnvFlags (shape : BitVec 4) (k : Nat) :
    envRamp (Config.defaultEnvFlags shape) (if (Config.defaultEnvFlags shape).att then .up else .down) k =
      rampTable shape k := by
  obtain ⟨⟨n, hn⟩⟩ := shape
  by_cases hk : k < 32
  · have hmod32 : k % 32 = k := Nat.mod_eq_of_lt hk
    have hmod64 : k % 64 = k := Nat.mod_eq_of_lt (by omega)
    rw [envRamp_of_lt _ _ hk]
    interval_cases n <;> simp [rampTable, Config.defaultEnvFlags, EnvDir.ramp, hk, hmod32, hmod64]
  · have hfalling : (if k % 64 < 32 then k % 64 else 31 - (k % 64 - 32)) =
        if k % 64 < 32 then k % 64 else 63 - k % 64 := by split_ifs <;> omega
    interval_cases n <;>
      simp [envRamp, rampTable, Config.defaultEnvFlags, EnvDir.ramp, EnvDir.flip, hk, hfalling]

/-- Settles O36: a restart is the start of a segment, so the value follows the ramp of the shape's flags, which under the
default flags is the table's row. -/
theorem envRampSequences : Obligations.EnvRampSequences := by
  intro P shape e k hflags
  rw [(envRestart_atStep shape e).iterate_envAdvance_value, ← envRamp_defaultEnvFlags, ← hflags]
  rfl

/-- RESET leaves shape 0 at the end of a falling segment, where the first run of EnvAdvance freezes the envelope at 0. -/
theorem iterate_envAdvance_resetEnv (hflags : P.envFlags = Config.defaultEnvFlags) (period : BitVec 16) (q : Nat) :
    (envAdvance P)^[q] { resetEnv with period := period } =
      { resetEnv with period := period, frozen := decide (0 < q) } := by
  cases q with
  | zero => rfl
  | succ q =>
    have hcont : (P.envFlags 0#4).cont = false := by rw [hflags]; rfl
    have hend : EnvState.AtStep { resetEnv with period := period } 31 := ⟨rfl, rfl⟩
    have hfreeze : envAdvance P { resetEnv with period := period } =
        { resetEnv with period := period, frozen := true } :=
      hend.envAdvance_eq_boundary.trans (if_pos hcont)
    rw [Function.iterate_succ_apply, hfreeze, iterate_envAdvance_of_frozen rfl, decide_eq_true q.succ_pos]

/-- Settles O37: the envelope is frozen at 0 by the first run of EnvAdvance, at tick max(P, 1). -/
theorem envelopeFromResetStaysZero : Obligations.EnvelopeFromResetStaysZero := by
  intro P period k hflags
  rw [iterate_envStep_eq_advances rfl, iterate_envAdvance_resetEnv hflags]
  refine ⟨rfl, decide_eq_true_iff.trans (Nat.div_pos_iff.trans (and_iff_right ?_))⟩
  exact lt_max_of_lt_right Nat.one_pos

end Sys2Proof.Machine
end

section
/-! PROOFS of the statements about the mixer and DAC stage (43_mixer_dac.md). The index with the envelope deselected, the
read of the DAC table's even entries and the sum of three products in [0, 1] are said once; for SET_VOLUME, what writing
one channel leaves unchanged. -/

namespace Sys2Proof.Machine

/-! ### Writing one channel's register (R152) -/

/-- An operand in range is the number that its register of `w` bits holds. -/
theorem toNat_ofInt_of_mem {w : Nat} {n : Int} (h0 : 0 ≤ n) (h1 : n < 2 ^ w) :
    ((BitVec.ofInt w n).toNat : Int) = n := by
  rw [BitVec.toNat_ofInt, Nat.cast_pow, Nat.cast_ofNat, Int.emod_eq_of_lt h0 h1, Int.toNat_of_nonneg h0]

theorem onlyToneChannel_setTone (c : Channel) (x : ToneChannel) (s : State) (r : Option Response) :
    OnlyToneChannel c s { s with engine := s.engine.setTone c x, response := r } :=
  ⟨fun _ hc => Channels.get_set_other _ hc x, rfl, rfl⟩

theorem exec_setVolume_of_mem (c : Channel) {n : Int} (h0 : 0 ≤ n) (h1 : n ≤ 15) (s : State) :
    exec (.setVolume (some c) n) s =
      accept (s.engine.setTone c { s.engine.tone.get c with volume := BitVec.ofInt 4 n }) s :=
  withRange_of_mem h0 h1 s _

theorem exec_setVolume_of_outOfRange {ch : ChannelField} {n : Int} (h : ch = none ∨ n < 0 ∨ 15 < n) (s : State) :
    exec (.setVolume ch n) s = raise .outOfRange s := by
  cases ch with
  | none => rfl
  | some c =>
    obtain hch | hn := h
    · cases hch
    · exact withRange_of_not_mem (by omega) s _

/-- Settles O19: in range the command writes the number's four bits to its channel, else it raises OutOfRange. -/
theorem setVolumeStoresOrRejects : Obligations.SetVolumeStoresOrRejects := by
  refine ⟨fun c n s h0 h1 => ?_, fun ch n s h => exec_setVolume_of_outOfRange h s⟩
  refine ⟨_, exec_setVolume_of_mem c h0 h1 s, rfl, onlyToneChannel_setTone c _ s _, ?_⟩
  rw [Engine.setTone_tone, Channels.get_set_same]
  exact ⟨toNat_ofInt_of_mem h0 (by omega), rfl⟩

/-! ### The DAC index and the channel's amplitude (R158 to R160) -/

section DacIndex
variable {t : ToneChannel} {bit : Bool} {env : BitVec 5}

theorem dacIndex_of_gate_closed (h : gate t bit = false) : dacIndex t bit env = 0 := by
  rw [dacIndex, h]
  rfl

/-- With the envelope deselected an open gate lets twice the volume through. -/
theorem dacIndex_of_gate_open (h : gate t bit = true) (heOn : t.eOn = false) :
    dacIndex t bit env = ⟨2 * t.volume.toNat, by omega⟩ := by
  rw [dacIndex, h, dacLevel, heOn]
  rfl

/-- With the envelope deselected volume 0 gives index 0, whether the gate is open or not. -/
theorem dacIndex_of_volume_zero (heOn : t.eOn = false) (hvolume : t.volume = 0#4) : dacIndex t bit env = 0 := by
  cases hgate : gate t bit with
  | false => exact dacIndex_of_gate_closed hgate
  | true =>
    rw [dacIndex_of_gate_open hgate heOn, Fin.mk_eq_zero, hvolume]
    rfl

end DacIndex

/-- R7 (b) for any two even entries, not only neighbours. -/
theorem dacEvenEntries_monotone {P : Params} (h : P.DacEvenMonotone) (v : Variant) :
    Monotone fun i : Fin 16 => P.dacTable v ⟨2 * i.val, by omega⟩ :=
  Fin.monotone_iff_le_succ.2 (h v)

/-- The static volume is no input of the gate, so with the envelope deselected the amplitude is entry 0 for both volumes
or an even entry for each. -/
theorem channelAmp_mono_volume {P : Params} (hP : P.DacEvenMonotone) (v : Variant) (bit : Bool) (env : BitVec 5)
    {t : ToneChannel} (heOn : t.eOn = false) {a b : BitVec 4} (hab : a.toNat ≤ b.toNat) :
    channelAmp P v bit env { t with volume := a } ≤ channelAmp P v bit env { t with volume := b } := by
  have hgate : ∀ x, gate { t with volume := x } bit = gate t bit := fun _ => rfl
  unfold channelAmp
  cases hopen : gate t bit with
  | false => rw [dacIndex_of_gate_closed ((hgate a).trans hopen), dacIndex_of_gate_closed ((hgate b).trans hopen)]
  | true =>
    rw [dacIndex_of_gate_open ((hgate a).trans hopen) heOn, dacIndex_of_gate_open ((hgate b).trans hopen) heOn]
    exact dacEvenEntries_monotone hP v (a := a.toFin) (b := b.toFin) hab

/-- Settles O40: volume 0 reads entry 0, and a larger volume reads a later even entry. That tone and
noise are off, so that the gate is open, is not needed for silence: the index of volume 0 is 0 under a closed gate too. -/
theorem volumeZeroSilentAndMonotone : Obligations.VolumeZeroSilentAndMonotone := by
  refine fun P v bit env t => ⟨fun hP _ _ heOn hvolume => ?_, fun hP heOn a b hab => ?_⟩
  · rw [channelAmp, dacIndex_of_volume_zero heOn hvolume]
    exact hP v
  · exact channelAmp_mono_volume hP v bit env heOn hab

/-! ### The mix (R161) -/

/-- Settles O38: this sum is the definition of `mix`. -/
theorem mixSumsThreePannedChannels : Obligations.MixSumsThreePannedChannels :=
  fun _ _ _ _ _ => ⟨rfl, rfl⟩

theorem mixSide_exact (amp weight : Channels Amp) :
    mixSide Numerics.exact amp weight = 0 + amp.a * weight.a + amp.b * weight.b + amp.c * weight.c := rfl

/-- In exact numerics a side is the sum of three products, each in [0, 1] when its amplitude and its weight are. -/
theorem mixSide_exact_mem {tone : Channels ToneChannel} {amp weight : ToneChannel → Amp}
    (hamp : ∀ t, 0 ≤ amp t ∧ amp t ≤ 1) (hweight : ∀ c, 0 ≤ weight (tone.get c) ∧ weight (tone.get c) ≤ 1) :
    0 ≤ mixSide Numerics.exact (tone.map amp) (tone.map weight) ∧
    mixSide Numerics.exact (tone.map amp) (tone.map weight) ≤ 3 := by
  have hproduct : ∀ c, 0 ≤ amp (tone.get c) * weight (tone.get c) ∧ amp (tone.get c) * weight (tone.get c) ≤ 1 :=
    fun c => ⟨mul_nonneg (hamp _).1 (hweight c).1, mul_le_one₀ (hamp _).2 (hweight c).1 (hweight c).2⟩
  have hA := hproduct .A
  have hB := hproduct .B
  have hC := hproduct .C
  simp only [Channels.get_A, Channels.get_B, Channels.get_C] at hA hB hC
  simp only [mixSide_exact, Channels.map_a, Channels.map_b, Channels.map_c]
  constructor <;> linarith

/-- Settles O41: every amplitude is an entry of the DAC table, so each side is a sum as in `mixSide_exact_mem`. -/
theorem rawSampleRange : Obligations.RawSampleRange := by
  intro P v tone bit env hdac hpans
  have hamp : ∀ t, 0 ≤ channelAmp P.withExact v bit env t ∧ channelAmp P.withExact v bit env t ≤ 1 :=
    fun t => hdac v (dacIndex t bit env)
  have hleft : ∀ c, 0 ≤ (tone.get c).panLeft ∧ (tone.get c).panLeft ≤ 1 := fun c =>
    have ⟨h0, h1, _⟩ := hpans c
    ⟨h0, h1⟩
  have hright : ∀ c, 0 ≤ (tone.get c).panRight ∧ (tone.get c).panRight ≤ 1 := fun c =>
    have ⟨_, _, h⟩ := hpans c
    h
  obtain ⟨hl0, hl3⟩ := mixSide_exact_mem hamp hleft
  obtain ⟨hr0, hr3⟩ := mixSide_exact_mem hamp hright
  exact ⟨hl0, hl3, hr0, hr3⟩

end Sys2Proof.Machine
end

section
/-! PROOFS of the statements about clock stepping and ADVANCE (44_clock_stepping.md). That the loop ends, given
ticks that suffice for its emissions, is said once (`advanceLoop_completes`), and so is what its native ticks and
emissions add up to (`Engine.Stepped`). The obligations follow from these and from the loop's induction,
`advanceLoop_keeps`. -/

namespace Sys2Proof.Machine

variable {P : Params}

/-! ### A native tick (R172) -/

/-- Settles O42: both interpolators take the mix of the stepped generators, by definition. -/
theorem nativeTickStepsThenMixes : Obligations.NativeTickStepsThenMixes :=
  fun _ e => ⟨e.tone.get_map toneStep, rfl, rfl, rfl, rfl, rfl⟩

/-! ### The loop ends -/

/-- The loop ends when the fuel covers the `r` emissions missing, `k` ticks that suffice for them, and the last test. -/
theorem advanceLoop_completes {fuel m r k : Nat} {e : Engine} (hm : m + r = 8)
    (hticks : r * e.config.mod ≤ e.phase + k * e.config.inc) (hfuel : r + k < fuel) :
    ∃ e', advanceLoop P fuel m e = some e' := by
  induction fuel generalizing m r k e with
  | zero => exact absurd hfuel (Nat.not_lt_zero _)
  | succ fuel ih =>
    rw [advanceLoop, Config.oversample]
    cases r with
    | zero => exact ⟨e, if_neg (by omega)⟩
    | succ r =>
      rw [if_pos (by omega)]
      rw [Nat.succ_mul] at hticks
      by_cases hdue : e.config.mod ≤ e.phase
      · rw [if_pos hdue]
        refine ih (m := m + 1) (r := r) (k := k) (by omega) ?_ (by omega)
        rw [loopEmit_config, loopEmit_phase]
        omega
      · rw [if_neg hdue]
        cases k with
        | zero => omega
        | succ k =>
          rw [Nat.succ_mul] at hticks
          refine ih (m := m) (r := r + 1) (k := k) hm ?_ (by omega)
          rw [loopTick_config, loopTick_phase, Nat.succ_mul]
          omega

theorem ConfigLatch.inc_pos_of_outHz_pos {c : ConfigLatch} (h : 0 < c.outHz) : 0 < c.inc :=
  Nat.mul_pos (by decide) h

/-- While OUT_HZ is positive ADVANCE latches the results of a loop that has ended. -/
theorem execAdvanceWith_next {s : State} (h : 0 < s.engine.config.outHz) :
    ∃ e, advanceLoop P (advanceFuel s.engine.config) 0 s.engine = some e ∧
      execAdvanceWith P s = .next { s with engine := latchFir P e, response := some ⟨.ok, none⟩ } := by
  obtain hnext | ⟨hnone, -⟩ := execAdvanceWith_cases P s
  · exact hnext
  · have hticks : 8 * s.engine.config.mod ≤
        s.engine.phase + (8 * s.engine.config.mod / s.engine.config.inc + 1) * s.engine.config.inc :=
      le_add_left ((Nat.div_lt_iff_lt_mul (ConfigLatch.inc_pos_of_outHz_pos h)).1 (Nat.lt_succ_self _)).le
    obtain ⟨e, he⟩ := advanceLoop_completes (P := P) (fuel := advanceFuel s.engine.config) (m := 0) rfl hticks
      (by rw [advanceFuel]; omega)
    rw [he] at hnone
    cases hnone

/-! ### The emissions' writes to the filters -/

theorem loopEmit_fir_widx (e : Engine) (side : Side) :
    ((loopEmit P e).fir.get side).widx.val = ((e.fir.get side).widx.val + 1) % 192 := by
  cases side <;> rfl

/-- Each of the eight emissions moves the write index of either side by one. -/
theorem advanceLoop_fir_widx {fuel : Nat} {e e' : Engine} (h : advanceLoop P fuel 0 e = some e') (side : Side) :
    (e'.fir.get side).widx.val = ((e.fir.get side).widx.val + 8) % 192 := by
  refine advanceLoop_keeps (Q := fun m x => (x.fir.get side).widx.val = ((e.fir.get side).widx.val + m) % 192)
    (fun _ _ _ _ hx => hx) (fun m x _ _ hx => ?_) fuel 0 e e' (Nat.zero_le 8) ?_ h
  · rw [loopEmit_fir_widx, hx]
    omega
  · exact (Nat.mod_eq_of_lt (e.fir.get side).widx.isLt).symm

/-- Settles O43: the loop ends, and what it keeps and moves is known. -/
theorem advanceCompletes : Obligations.AdvanceCompletes := by
  intro s hout
  obtain ⟨e, hloop, hnext⟩ := execAdvanceWith_next (P := Config.params) hout
  refine ⟨_, hnext, rfl, rfl, rfl, rfl, rfl, ?_, ?_, fun hphase => ?_⟩
  · rw [latchFir_fatal, advanceLoop_fatal hloop]
    rfl
  · rw [latchFir_fir]
    exact advanceLoop_fir_widx hloop
  · rw [latchFir_phase, ← advanceLoop_config hloop]
    exact advanceLoop_phase_lt hphase hloop

/-! ### The run of passes (R173) -/

theorem emitsSample_loopEmit {e : Engine} (h : e.config.mod ≤ e.phase) : EmitsSample P e (loopEmit P e) := by
  refine ⟨Nat.sub_add_cancel h, fun t ht => ?_, rfl⟩
  rw [ht]
  exact ⟨rfl, rfl⟩

/-- The body of the loop as a function on (`emitted`, engine), so that a run of passes is its iteration. -/
def loopPass (P : Params) (p : Nat × Engine) : Nat × Engine :=
  if p.2.config.mod ≤ p.2.phase then (p.1 + 1, loopEmit P p.2) else (p.1, loopTick P p.2)

theorem loopPass_of_due {p : Nat × Engine} (h : p.2.config.mod ≤ p.2.phase) :
    loopPass P p = (p.1 + 1, loopEmit P p.2) := if_pos h

theorem loopPass_of_not_due {p : Nat × Engine} (h : p.2.phase < p.2.config.mod) :
    loopPass P p = (p.1, loopTick P p.2) := if_neg (Nat.not_le_of_lt h)

theorem loopPass_isPass {p : Nat × Engine} (h : p.1 < 8) : LoopPass P p (loopPass P p) := by
  refine ⟨h, fun hdue => ?_, fun hnotDue => ?_⟩
  · rw [loopPass_of_due hdue]
    exact ⟨rfl, emitsSample_loopEmit hdue⟩
  · rw [loopPass_of_not_due hnotDue]
    exact ⟨rfl, rfl⟩

theorem loopPass_config (p : Nat × Engine) : (loopPass P p).2.config = p.2.config := by
  unfold loopPass
  split <;> rfl

theorem loopPass_phaseBounded {p : Nat × Engine} (hm : p.1 < 8) (h : p.2.PhaseBounded p.1) :
    (loopPass P p).2.PhaseBounded (loopPass P p).1 := by
  by_cases hdue : p.2.config.mod ≤ p.2.phase
  · rw [loopPass_of_due hdue]
    exact h.loopEmit P hdue
  · have hnotDue := Nat.lt_of_not_le hdue
    rw [loopPass_of_not_due hnotDue]
    exact .loopTick P hm hnotDue

/-- The run of passes from `e` with nothing emitted. -/
def loopRun (P : Params) (e : Engine) (i : Nat) : Nat × Engine := (loopPass P)^[i] (0, e)

theorem loopRun_succ (e : Engine) (i : Nat) : loopRun P e (i + 1) = loopPass P (loopRun P e i) :=
  Function.iterate_succ_apply' (loopPass P) i (0, e)

theorem loopRun_config (e : Engine) (i : Nat) : (loopRun P e i).2.config = e.config := by
  induction i with
  | zero => rfl
  | succ i ih => rw [loopRun_succ, loopPass_config, ih]

/-- `n` passes of the run from `e` lead to `q`, each made with fewer than 8 emitted. -/
def RunReaches (P : Params) (e : Engine) (n : Nat) (q : Nat × Engine) : Prop :=
  loopRun P e n = q ∧ ∀ i < n, (loopRun P e i).1 < 8

theorem RunReaches.succ {e : Engine} {n : Nat} {q : Nat × Engine} (h : RunReaches P e n q) (hq : q.1 < 8) :
    RunReaches P e (n + 1) (loopPass P q) := by
  obtain ⟨rfl, hbefore⟩ := h
  refine ⟨loopRun_succ e n, fun i hi => ?_⟩
  obtain hi | rfl := Nat.lt_succ_iff_lt_or_eq.1 hi
  · exact hbefore i hi
  · exact hq

/-- From a phase below INC the phase keeps to its bound at every point of the run. -/
theorem RunReaches.phaseBounded {e : Engine} {n : Nat} {q : Nat × Engine} (h : RunReaches P e n q)
    (hphase : e.phase < e.config.inc) {i : Nat} (hi : i ≤ n) : (loopRun P e i).2.PhaseBounded (loopRun P e i).1 := by
  obtain ⟨-, hbefore⟩ := h
  induction i with
  | zero => exact ⟨Nat.lt_add_left _ hphase, fun _ => hphase⟩
  | succ i ih =>
    rw [loopRun_succ]
    exact loopPass_phaseBounded (hbefore i hi) (ih (Nat.le_of_lt hi))

/-- The loop that ends is a run of passes to the eighth emission. -/
theorem advanceLoop_runReaches {fuel : Nat} {e e' : Engine} (h : advanceLoop P fuel 0 e = some e') :
    ∃ n, RunReaches P e n (8, e') := by
  refine advanceLoop_keeps (Q := fun m x => ∃ n, RunReaches P e n (m, x)) ?_ ?_ fuel 0 e e' (Nat.zero_le 8)
    ⟨0, rfl, fun i hi => absurd hi (Nat.not_lt_zero i)⟩ h
  · rintro m x hm hnotDue ⟨n, hn⟩
    exact ⟨n + 1, loopPass_of_not_due (P := P) (p := (m, x)) hnotDue ▸ hn.succ hm⟩
  · rintro m x hm hdue ⟨n, hn⟩
    exact ⟨n + 1, loopPass_of_due (P := P) (p := (m, x)) hdue ▸ hn.succ hm⟩

/-- Settles O44: the run is the iteration of the loop's body, and the results latched are those of its last engine. -/
theorem advanceRunsTheLoop : Obligations.AdvanceRunsTheLoop := by
  refine ⟨fun P e => emitsSample_loopEmit, fun P s hout => ?_⟩
  obtain ⟨e, hloop, hnext⟩ := execAdvanceWith_next (P := P) hout
  obtain ⟨n, hreaches⟩ := advanceLoop_runReaches hloop
  have ⟨hend, hbefore⟩ := hreaches
  refine ⟨_, n, loopRun P s.engine, hnext, rfl, rfl, rfl, fun i hi => ?_, ?_⟩
  · rw [loopRun_succ]
    exact loopPass_isPass (hbefore i hi)
  · rw [hend]
    refine ⟨rfl, rfl, ?_, rfl, fun hphase i hi => ?_⟩
    · rw [latchFir_fatal, advanceLoop_fatal hloop]
      rfl
    · obtain ⟨hbound, -⟩ := hreaches.phaseBounded hphase hi
      rwa [loopRun_config] at hbound

/-! ### What ticks and emissions add up to (R174) -/

/-- `k` native ticks and `m` emissions lead from `e` to `x`, as far as the generators and the phase go. -/
structure Engine.Stepped (P : Params) (e : Engine) (m k : Nat) (x : Engine) : Prop where
  config : x.config = e.config
  tone : ∀ c, x.tone.get c = toneStep^[k] (e.tone.get c)
  noise : x.noise = (noiseStep P)^[k] e.noise
  env : x.env = (envStep P)^[k] e.env
  phase : x.phase + m * e.config.mod = e.phase + k * e.config.inc

theorem Engine.Stepped.refl (e : Engine) : e.Stepped P 0 0 e :=
  ⟨rfl, fun _ => rfl, rfl, rfl, by rw [Nat.zero_mul, Nat.zero_mul]⟩

section Stepped
variable {e x : Engine} {m k : Nat} (h : e.Stepped P m k x)
include h

theorem Engine.Stepped.loopTick : e.Stepped P m (k + 1) (loopTick P x) where
  config := h.config
  tone c := by rw [loopTick_tone, Channels.get_map, h.tone, Function.iterate_succ_apply']
  noise := by rw [loopTick_noise, h.noise, Function.iterate_succ_apply']
  env := by rw [loopTick_env, h.env, Function.iterate_succ_apply']
  phase := by
    have hphase := h.phase
    rw [loopTick_phase, h.config, Nat.succ_mul]
    omega

theorem Engine.Stepped.loopEmit (hdue : x.config.mod ≤ x.phase) : e.Stepped P (m + 1) k (loopEmit P x) where
  config := h.config
  tone := h.tone
  noise := h.noise
  env := h.env
  phase := by
    have hphase := h.phase
    rw [h.config] at hdue
    rw [loopEmit_phase, h.config, Nat.succ_mul]
    omega

theorem Engine.Stepped.latchFir : e.Stepped P m k (latchFir P x) :=
  ⟨h.config, h.tone, h.noise, h.env, h.phase⟩

theorem Engine.Stepped.trans {m' k' : Nat} {y : Engine} (h' : x.Stepped P m' k' y) :
    e.Stepped P (m + m') (k + k') y where
  config := h'.config.trans h.config
  tone c := by rw [h'.tone, h.tone, Nat.add_comm, Function.iterate_add_apply]
  noise := by rw [h'.noise, h.noise, Nat.add_comm, Function.iterate_add_apply]
  env := by rw [h'.env, h.env, Nat.add_comm, Function.iterate_add_apply]
  phase := by
    have hphase := h.phase
    have hphase' := h'.phase
    rw [h.config] at hphase'
    rw [Nat.add_mul, Nat.add_mul]
    omega

end Stepped

/-- None of the first `k` ticks from `e` comes after the `m`-th emission is due. -/
def Engine.TicksNeeded (e : Engine) (m k : Nat) : Prop := ∀ j < k, e.phase + j * e.config.inc < m * e.config.mod

theorem Engine.TicksNeeded.zero (e : Engine) (m : Nat) : e.TicksNeeded m 0 := fun j hj => absurd hj (Nat.not_lt_zero j)

/-- A tick that the loop runs is needed: the phase has not reached MOD, so the emission after the `m` made is not
due. -/
theorem Engine.TicksNeeded.succ {e x : Engine} {m k N : Nat} (h : e.TicksNeeded N k) (hx : e.Stepped P m k x)
    (hm : m < N) (hnotDue : x.phase < x.config.mod) : e.TicksNeeded N (k + 1) := by
  intro j hj
  obtain hj | rfl := Nat.lt_succ_iff_lt_or_eq.1 hj
  · exact h j hj
  · have hemissions : (m + 1) * e.config.mod ≤ N * e.config.mod := Nat.mul_le_mul_right _ hm
    rw [hx.config] at hnotDue
    rw [← hx.phase]
    rw [Nat.succ_mul] at hemissions
    omega

/-- Ticks needed for `m` emissions, and from there ticks needed for `m'` more, are needed for all. -/
theorem Engine.TicksNeeded.trans {e x : Engine} {m k m' k' : Nat} (h : e.TicksNeeded m k) (hx : e.Stepped P m k x)
    (h' : x.TicksNeeded m' k') : e.TicksNeeded (m + m') (k + k') := by
  intro j hj
  rw [Nat.add_mul]
  by_cases hfirst : j < k
  · exact Nat.lt_add_right _ (h j hfirst)
  · obtain ⟨i, rfl⟩ := Nat.exists_eq_add_of_le (Nat.le_of_not_lt hfirst)
    have hlater := h' i (by omega)
    have hphase := hx.phase
    rw [hx.config] at hlater
    rw [Nat.add_mul]
    omega

/-- The eight emissions of a loop that ends, and as many ticks as they need. -/
theorem advanceLoop_stepped {fuel : Nat} {e e' : Engine} (h : advanceLoop P fuel 0 e = some e') :
    ∃ k, e.Stepped P 8 k e' ∧ e.TicksNeeded 8 k := by
  refine advanceLoop_keeps (Q := fun m x => ∃ k, e.Stepped P m k x ∧ e.TicksNeeded 8 k) ?_ ?_ fuel 0 e e'
    (Nat.zero_le 8) ⟨0, .refl e, .zero e 8⟩ h
  · rintro m x hm hnotDue ⟨k, hx, hneeded⟩
    exact ⟨k + 1, hx.loopTick, hneeded.succ hx hm hnotDue⟩
  · rintro m x - hdue ⟨k, hx, hneeded⟩
    exact ⟨k, hx.loopEmit hdue, hneeded⟩

/-- A completed ADVANCE makes eight emissions and the ticks they need. -/
theorem execAdvanceWith_stepped {s t : State} (h : execAdvanceWith P s = .next t) :
    ∃ k, s.engine.Stepped P 8 k t.engine ∧ s.engine.TicksNeeded 8 k := by
  obtain ⟨e, hloop, hnext⟩ | ⟨-, hfault⟩ := execAdvanceWith_cases P s
  · rw [hnext, Host.Outcome.next.injEq] at h
    obtain ⟨k, hstepped, hneeded⟩ := advanceLoop_stepped hloop
    exact ⟨k, h ▸ hstepped.latchFir, hneeded⟩
  · rw [hfault] at h
    cases h

/-! ### The number of ticks (R174) -/

/-- The least number of ticks of `d` that bring a phase `p` to `a` is the quotient rounded up. -/
theorem eq_ceil_of_least {a p d k : Nat} (hd : 0 < d) (hreached : a ≤ p + k * d) (hbelow : ∀ j < k, p + j * d < a) :
    k = (a - p + (d - 1)) / d := by
  have hle : ∀ j, (a - p + (d - 1)) / d ≤ j ↔ a ≤ p + j * d := fun j => by
    rw [Nat.div_le_iff_le_mul hd]
    omega
  refine Nat.le_antisymm (Nat.le_of_not_lt fun hlt => ?_) ((hle k).2 hreached)
  exact Nat.not_le_of_lt (hbelow _ hlt) ((hle _).1 le_rfl)

theorem Engine.Stepped.eq_ticksDue {e x : Engine} {k : Nat} (h : e.Stepped P 8 k x) (hneeded : e.TicksNeeded 8 k)
    (hinc : 0 < e.config.inc) : k = ticksDue e.config e.phase :=
  eq_ceil_of_least hinc (h.phase ▸ Nat.le_add_left _ _) hneeded

/-- Ticks needed for eight emissions from a phase below INC number CLK_HZ / OUT_HZ rounded down, or one more. -/
theorem Engine.Stepped.ticks_eq_floor_or_succ {e x : Engine} {k : Nat} (h : e.Stepped P 8 k x)
    (hneeded : e.TicksNeeded 8 k) (hout : 0 < e.config.outHz) (hphase : e.phase < e.config.inc) :
    k = e.config.clkHz / e.config.outHz ∨ k = e.config.clkHz / e.config.outHz + 1 := by
  have hlow : e.config.clkHz / e.config.outHz < k + 1 := by
    have hend := h.phase
    rw [Nat.div_lt_iff_lt_mul hout, Nat.succ_mul]
    rw [ConfigLatch.inc] at hend hphase
    rw [ConfigLatch.mod, Nat.mul_left_comm] at hend
    omega
  have hhigh : k ≤ e.config.clkHz / e.config.outHz + 1 := by
    cases k with
    | zero => exact Nat.zero_le _
    | succ k =>
      have hlast := hneeded k k.lt_succ_self
      rw [ConfigLatch.inc, ConfigLatch.mod, Nat.mul_left_comm] at hlast
      refine Nat.succ_le_succ ((Nat.le_div_iff_mul_le hout).2 ?_)
      omega
  omega

/-- From phase 0 the ticks needed for `8 * n` emissions number `n * CLK_HZ / OUT_HZ` rounded up. -/
theorem Engine.Stepped.ticks_eq_ceil {e x : Engine} {n k : Nat} (h : e.Stepped P (8 * n) k x)
    (hneeded : e.TicksNeeded (8 * n) k) (hout : 0 < e.config.outHz) (hphase : e.phase = 0) :
    k = (n * e.config.clkHz + (e.config.outHz - 1)) / e.config.outHz := by
  refine eq_ceil_of_least (a := n * e.config.clkHz) (p := 0) hout ?_ fun j hj => ?_
  · have hend := h.phase
    rw [ConfigLatch.inc, ConfigLatch.mod, Nat.mul_assoc, Nat.mul_left_comm k] at hend
    omega
  · have hbelow := hneeded j hj
    rw [ConfigLatch.inc, ConfigLatch.mod, Nat.mul_assoc, Nat.mul_left_comm j] at hbelow
    omega

/-- Settles O45: the ticks made are those needed, whose number is `ticksDue`. -/
theorem advanceTickCount : Obligations.AdvanceTickCount := by
  intro P s t hout hnext
  obtain ⟨k, hstepped, hneeded⟩ := execAdvanceWith_stepped hnext
  have hcount := hstepped.eq_ticksDue hneeded (ConfigLatch.inc_pos_of_outHz_pos hout)
  rw [← hcount]
  exact ⟨hstepped.tone, hstepped.noise, hstepped.env, hstepped.phase, hstepped.ticks_eq_floor_or_succ hneeded hout⟩

/-! ### Ticks over a run of ADVANCE commands (R174) -/

/-- `n` ADVANCE commands complete with `8 * n` emissions and the ticks these need. -/
theorem advanceTimes_stepped (n : Nat) {s : State} (hout : 0 < s.engine.config.outHz) :
    ∃ t, advanceTimes P n s = .next t ∧
      ∃ k, s.engine.Stepped P (8 * n) k t.engine ∧ s.engine.TicksNeeded (8 * n) k := by
  induction n generalizing s with
  | zero => exact ⟨s, rfl, 0, .refl s.engine, .zero s.engine 0⟩
  | succ n ih =>
    obtain ⟨e, -, hnext⟩ := execAdvanceWith_next (P := P) hout
    obtain ⟨k, hstepped, hneeded⟩ := execAdvanceWith_stepped hnext
    obtain ⟨t, htimes, k', hstepped', hneeded'⟩ := ih (by rw [hstepped.config]; exact hout)
    refine ⟨t, by rw [advanceTimes, hnext]; exact htimes, k + k', ?_⟩
    rw [Nat.mul_succ, Nat.add_comm]
    exact ⟨hstepped.trans hstepped', hneeded.trans hstepped hneeded'⟩

/-- A positive rate is latched as the number its strap holds. -/
theorem toNat_toInt_of_pos {w : Nat} {x : BitVec w} (h : 0 < x.toInt) : x.toInt.toNat = x.toNat := by
  rw [BitVec.toInt_eq_toNat_of_lt (BitVec.toInt_pos_iff.1 h.le), Int.toNat_natCast]

theorem resetConfig_of_pos {st : Straps} (hclk : 0 < st.clkHz.toInt) (hout : 0 < st.outHz.toInt) :
    resetConfig st = ⟨true, st.variant, st.clkHz.toNat, st.outHz.toNat⟩ := by
  rw [resetConfig, if_pos ((strapsValid_iff st).2 ⟨hclk, hout⟩), toNat_toInt_of_pos hclk, toNat_toInt_of_pos hout]

/-- Settles O46: all commands complete, and from RESET's phase 0 the ticks made are counted by `ticks_eq_ceil`. -/
theorem advanceRunTickCount : Obligations.AdvanceRunTickCount := by
  intro P st n hclk hout
  have hconfig : (resetEngine P st).config = ⟨true, st.variant, st.clkHz.toNat, st.outHz.toNat⟩ :=
    resetConfig_of_pos hclk hout
  have hpos : 0 < (resetEngine P st).config.outHz := by
    rw [hconfig]
    change 0 < st.outHz.toNat
    rw [← toNat_toInt_of_pos hout]
    exact Int.pos_iff_toNat_pos.1 hout
  obtain ⟨t, htimes, k, hstepped, hneeded⟩ :=
    advanceTimes_stepped (P := P) n (s := ⟨resetEngine P st, [], none⟩) hpos
  have hcount := hstepped.ticks_eq_ceil hneeded hpos rfl
  have hphase := hstepped.phase
  rw [hconfig] at hcount
  rw [hconfig, resetEngine_phase, Nat.zero_add] at hphase
  refine ⟨t, htimes, fun T hT => ?_⟩
  obtain rfl : k = T := hcount.trans hT.symm
  exact ⟨fun c => by rw [hstepped.tone, resetEngine_tone], hstepped.noise, hstepped.env, hphase⟩

end Sys2Proof.Machine
end

section
/-! PROOF of the statement about the interpolator (45_interpolator.md). A `Quad` is read as the coefficients of a cubic.
In exact numerics the coefficients computed from a cubic's values at -1, 0, 1, 2 are that cubic's own (R186), and an
evaluation is its value (R187); a cubic in the tick number is first rewritten about tick `k`. -/

namespace Sys2Proof.Machine

/-! ### Cubics by their coefficients -/

/-- The value at `t` of the cubic with the four coefficients, lowest degree first (R186). -/
def Quad.cubicAt (q : Quad) (t : ℚ) : ℚ := q.x0 + q.x1 * t + q.x2 * t ^ 2 + q.x3 * t ^ 3

/-- The coefficients of the same cubic in the distance from `k`. -/
def Quad.recentre (q : Quad) (k : ℚ) : Quad :=
  ⟨q.cubicAt k, q.x1 + 2 * q.x2 * k + 3 * q.x3 * k ^ 2, q.x2 + 3 * q.x3 * k, q.x3⟩

theorem Quad.cubicAt_recentre (q : Quad) (k t : ℚ) : (q.recentre k).cubicAt t = q.cubicAt (k + t) := by
  simp only [recentre, cubicAt]
  ring

/-! ### The interpolator in exact numerics -/

/-- R186: four pushes replace the window, and with it the coefficients, whatever was held before. -/
theorem interpPush_four (N : Numerics) (i : InterpState) (y0 y1 y2 y3 : Amp) :
    interpPush N (interpPush N (interpPush N (interpPush N i y0) y1) y2) y3 =
      ⟨⟨y0, y1, y2, y3⟩, interpCoeffs N ⟨y0, y1, y2, y3⟩⟩ := rfl

/-- R186: the computed coefficients solve the four interpolation equations. -/
theorem interpCoeffs_exact_cubicAt (q : Quad) :
    interpCoeffs Numerics.exact ⟨q.cubicAt (-1), q.cubicAt 0, q.cubicAt 1, q.cubicAt 2⟩ = q := by
  obtain ⟨c0, c1, c2, c3⟩ := q
  simp only [interpCoeffs, Numerics.exact, Quad.cubicAt, Quad.mk.injEq]
  push_cast
  refine ⟨?_, ?_, ?_, ?_⟩ <;> ring

/-- R187: Horner's form is the value of the cubic. -/
theorem interpEval_exact (i : InterpState) (t : ℚ) : interpEval Numerics.exact i t = i.ic.cubicAt t := by
  simp only [interpEval, Numerics.exact, Quad.cubicAt]
  ring

/-- Settles O48: about tick `k` the four samples are a cubic's values at -1, 0, 1, 2, so its coefficients are computed. -/
theorem cubicReproducedExactly : Obligations.CubicReproducedExactly := by
  intro i a b c d k t f hf
  have hlocal : ∀ x, f (k + x) = (Quad.recentre ⟨a, b, c, d⟩ k).cubicAt x := fun x => by
    rw [Quad.cubicAt_recentre, hf, Quad.cubicAt]
  have hcentre : f k = (Quad.recentre ⟨a, b, c, d⟩ k).cubicAt 0 := by rw [← hlocal, add_zero]
  rw [interpEval_exact, interpPush_four, sub_eq_add_neg, hcentre, hlocal, hlocal, hlocal, hlocal,
    interpCoeffs_exact_cubicAt]

end Sys2Proof.Machine
end

section
/-! PROOF of the statement about the settled FIR filter (46_fir_decimator.md R200). In exact numerics FirEval is the sum
of coefficient times tap; after 192 writes of one sample every tap reads it, so it factors out of the sum. -/

namespace Sys2Proof.Machine

/-- R199 in exact numerics: `acc(n)` is the sum over the first `n` taps. -/
theorem firAcc_withExact (P : Params) (f : FirState) (n : Nat) (hn : n ≤ 192) :
    firAcc P.withExact f n hn = ∑ k : Fin n, P.firCoef (k.castLE hn) * f.tap (k.castLE hn) := by
  induction n with
  | zero => rfl
  | succ n ih =>
    rw [Fin.sum_univ_castSucc, firAcc, ih]
    rfl

theorem firEval_withExact (P : Params) (f : FirState) :
    firEval P.withExact f = ∑ k : Fin 192, P.firCoef k * f.tap k :=
  firAcc_withExact P f 192 le_rfl

/-- A filter with unit gain answers a constant window with the constant. -/
theorem firEval_withExact_of_tap_eq {P : Params} (hgain : P.FirUnitGain) {f : FirState} {c : Amp}
    (htap : ∀ k, f.tap k = c) : firEval P.withExact f = c :=
  calc firEval P.withExact f
    _ = ∑ k : Fin 192, P.firCoef k * c := by simp only [firEval_withExact, htap]
    _ = (∑ k : Fin 192, P.firCoef k) * c := (Finset.sum_mul ..).symm
    _ = c := by rw [hgain, one_mul]

theorem foldl_firWrite_replicate (f : FirState) (c : Amp) (n : Nat) :
    (List.replicate n c).foldl firWrite f = (fun g => firWrite g c)^[n] f := by
  induction n generalizing f with
  | zero => rfl
  | succ n ih => rw [List.replicate_succ, List.foldl_cons, ih, Function.iterate_succ_apply]

/-- The last 192 of `n` equal writes fill the window, whatever the writes before them left. -/
theorem iterate_firWrite_tap (f : FirState) (c : Amp) {n : Nat} (hn : 192 ≤ n) (k : Fin 192) :
    ((fun g => firWrite g c)^[n] f).tap k = c := by
  obtain ⟨m, rfl⟩ := Nat.exists_eq_add_of_le hn
  rw [Function.iterate_add_apply, ← foldl_firWrite_replicate _ c 192,
    foldl_firWrite_tap _ List.length_replicate, List.getElem_replicate]

/-- Settles O52: from 192 writes on every tap reads `c`, and the coefficients sum to 1. The window is overwritten whole,
so the mirroring of the first state is not needed. -/
theorem firSettlesOnConstant : Obligations.FirSettlesOnConstant := by
  intro P f c n hgain _ hn
  exact firEval_withExact_of_tap_eq hgain (iterate_firWrite_tap f c hn)

end Sys2Proof.Machine
end

section
/-! PROOF of the statement about the DC filter on a constant (47_dc_filter.md R207). From RESET, `n` pushes of one input
fill the delay line from its start: `FilledFromReset` says what the filter then holds, and the output follows from its
running sum. -/

namespace Sys2Proof.Machine

/-- What a DC filter holds, in exact numerics, after `n` inputs `c` from RESET: `c` in the places already written and 0
in the others, with their sum beside them. -/
structure DcState.FilledFromReset (c : Amp) (n : Nat) (d : DcState) : Prop where
  index : d.widx.val = n % 1024
  delay : ∀ i (hi : i < 1024), d.delay[i] = if i < n then c else 0
  sum : d.sum = (min n 1024 : Nat) * c

theorem resetDc_filledFromReset (c : Amp) : (resetDc Numerics.exact).FilledFromReset c 0 where
  index := rfl
  delay _ _ := Vector.getElem_replicate _
  sum := by rw [Nat.zero_min, Nat.cast_zero, zero_mul]; rfl

/-- R206: the entry read is a zero of RESET until the window has filled, and `c` from then on. -/
theorem DcState.FilledFromReset.oldest {c : Amp} {n : Nat} {d : DcState} (h : d.FilledFromReset c n) :
    d.oldest = if n < 1024 then 0 else c := by
  rw [DcState.oldest, h.delay, h.index]
  by_cases hn : n < 1024
  · rw [if_neg (by omega), if_pos hn]
  · rw [if_pos (by omega), if_neg hn]

/-- R206: the sum grows by `c` until the window has filled, and then keeps its value. -/
theorem DcState.FilledFromReset.dcNewSum_eq {c : Amp} {n : Nat} {d : DcState} (h : d.FilledFromReset c n) :
    dcNewSum Numerics.exact d c = (min (n + 1) 1024 : Nat) * c := by
  change d.sum + (c - d.oldest) = _
  rw [h.sum, h.oldest]
  by_cases hn : n < 1024
  · rw [if_pos hn, min_eq_left hn.le, min_eq_left hn]
    push_cast
    ring
  · rw [if_neg hn, min_eq_right (not_lt.1 hn), min_eq_right (by omega), sub_self, add_zero]

/-- One more input `c` fills the next place of the delay line. -/
theorem DcState.FilledFromReset.push {c : Amp} {n : Nat} {d : DcState} (h : d.FilledFromReset c n) :
    (dcPush Numerics.exact d c).FilledFromReset c (n + 1) where
  index := by rw [dcPush, DcState.slide_widx, h.index, Nat.mod_add_mod]
  delay i hi := by
    rw [dcPush, DcState.slide_delay, h.delay, h.index]
    by_cases hwritten : i = n % 1024
    · rw [if_pos hwritten, if_pos (by omega)]
    · rw [if_neg hwritten]
      exact if_congr (by omega) rfl rfl
  sum := h.dcNewSum_eq

theorem iterate_dcPush_filledFromReset (c : Amp) (n : Nat) :
    ((fun d => dcPush Numerics.exact d c)^[n] (resetDc Numerics.exact)).FilledFromReset c n := by
  induction n with
  | zero => exact resetDc_filledFromReset c
  | succ n ih =>
    rw [Function.iterate_succ_apply']
    exact ih.push

/-- Settles O54: the running sum after call number `n + 1` is `min (n + 1) 1024` times `c`. -/
theorem dcConstantInputDecaysToZero : Obligations.DcConstantInputDecaysToZero := by
  intro c n
  change c - dcNewSum Numerics.exact _ c / ((1024 : Int) : ℚ) = _
  rw [(iterate_dcPush_filledFromReset c n).dcNewSum_eq]
  by_cases hn : n + 1 ≤ 1024
  · rw [if_pos hn, min_eq_left hn]
    push_cast
    ring
  · rw [if_neg hn, min_eq_right (by omega)]
    push_cast
    ring

end Sys2Proof.Machine
end

section
/-! PROOFS of the statements about admission, errors and the step (60_exceptions.md). How a command may be answered is
said once, by `CommandAnswer`; a word is answered so or turned away at admission. The obligations about responses, about
the host's list and about completion follow from these. -/

namespace Sys2Proof.Machine

variable {i : Instr} {s t : State}

/-! ### How a command may be answered (R220, R221) -/

/-- The answers of a command's own rule: an error of the rule, which changes the response alone, or OK with the engine
the rule leaves; DATA comes with READ_SAMPLE's OK only (R86). -/
inductive CommandAnswer (i : Instr) (s : State) : State → Prop
  | outOfRange (hi : OutOfRangeOperand i) : CommandAnswer i s (s.rejectedWith .outOfRange)
  | notValid (hi : i = .removeDc ∨ i = .readSample) (hvalid : s.engine.out.valid = false) :
      CommandAnswer i s (s.rejectedWith .notValid)
  | completed (hi : i ≠ .readSample) (e : Engine) :
      CommandAnswer i s { s with engine := e, response := some ⟨.ok, none⟩ }
  | sample (hi : i = .readSample) :
      CommandAnswer i s { s with response := some ⟨.ok, some (samplePair Config.params.num s.engine.out)⟩ }

/-- A command behind a channel check: the answer for a channel is left to show. -/
theorem CommandAnswer.of_withChannel {ch : ChannelField} {k : Channel → Result} (h : withChannel ch s k = .next t)
    (hnone : ch = none → OutOfRangeOperand i) (hk : ∀ c, k c = .next t → CommandAnswer i s t) :
    CommandAnswer i s t := by
  obtain ⟨hch, rfl⟩ | ⟨c, -, hkc⟩ := withChannel_next h
  · exact .outOfRange (hnone hch)
  · exact hk c hkc

theorem CommandAnswer.of_accept {e : Engine} (h : accept e s = .next t) (hi : i ≠ .readSample) :
    CommandAnswer i s t := by
  cases h
  exact .completed hi e

/-- A command that only checks its operand's range and then writes. -/
theorem CommandAnswer.of_withRange {top : Nat} {n : Int} {e : Engine} (h : withRange top n s (accept e s) = .next t)
    (hout : n < 0 ∨ (top : Int) < n → OutOfRangeOperand i) (hi : i ≠ .readSample) : CommandAnswer i s t := by
  obtain ⟨hn, rfl⟩ | ⟨-, hk⟩ := withRange_next h
  · exact .outOfRange (hout (by omega))
  · exact .of_accept hk hi

/-- A command behind the validity check: the answer with a valid output latch is left to show. -/
theorem CommandAnswer.of_withValid {k : Result} (h : withValid s k = .next t) (hi : i = .removeDc ∨ i = .readSample)
    (hk : k = .next t → CommandAnswer i s t) : CommandAnswer i s t := by
  obtain ⟨hvalid, rfl⟩ | ⟨-, hk'⟩ := withValid_next h
  · exact .notValid hi hvalid
  · exact hk hk'

/-- Every next state of a command is one of the answers of `CommandAnswer`. -/
theorem exec_answer (h : exec i s = .next t) : CommandAnswer i s t := by
  cases i with
  | setTonePeriod ch n => exact .of_withChannel h .inl fun c hk => .of_withRange hk .inr nofun
  | setPan ch eqp raw => exact .of_withChannel h id fun c hk => .of_accept hk nofun
  | setVolume ch n => exact .of_withChannel h .inl fun c hk => .of_withRange hk .inr nofun
  | setMixer ch tn no en => exact .of_withChannel h id fun c hk => .of_accept hk nofun
  | setNoisePeriod n => exact .of_withRange h id nofun
  | setEnvPeriod n => exact .of_withRange h id nofun
  | setEnvShape n => exact .of_withRange h id nofun
  | advance =>
    obtain ⟨e, -, hnext⟩ | ⟨-, hfault⟩ := execAdvanceWith_cases Config.params s
    · exact .of_accept (hnext.symm.trans h) nofun
    · cases hfault.symm.trans h
  | removeDc => exact .of_withValid h (.inl rfl) fun hk => .of_accept hk nofun
  | readSample =>
    refine .of_withValid h (.inr rfl) fun hk => ?_
    cases hk
    exact .sample rfl

theorem CommandAnswer.inputs_eq (h : CommandAnswer i s t) : t.inputs = s.inputs := by
  cases h <;> rfl

/-- An answer with an error is a rejection. -/
theorem CommandAnswer.eq_rejectedWith (h : CommandAnswer i s t) {r : Response} (hr : t.response = some r)
    (herr : r.status ≠ .ok) : t = s.rejectedWith r.status := by
  cases h with
  | outOfRange | notValid => cases hr; rfl
  | completed | sample => cases hr; exact absurd rfl herr

/-! ### Rejected commands (R223, R225) -/

theorem withRange_of_outOfRange {top : Nat} {n : Int} (h : n < 0 ∨ (top : Int) < n) (k : Result) :
    withRange top n s k = .next (s.rejectedWith .outOfRange) :=
  withRange_of_not_mem (by omega) s k

/-- The channel is checked before the range (R227), and both checks raise the same error. -/
theorem withChannel_withRange_of_outOfRange {ch : ChannelField} {top : Nat} {n : Int}
    (h : ch = none ∨ n < 0 ∨ (top : Int) < n) (k : Channel → Result) :
    withChannel ch s (fun c => withRange top n s (k c)) = .next (s.rejectedWith .outOfRange) := by
  cases ch with
  | none => rfl
  | some c => exact withRange_of_outOfRange (h.resolve_left nofun) (k c)

/-- A command with an operand of R223's list raises OutOfRange. -/
theorem exec_of_outOfRangeOperand (hi : OutOfRangeOperand i) (s : State) :
    exec i s = .next (s.rejectedWith .outOfRange) := by
  cases i with
  | setTonePeriod ch n => exact withChannel_withRange_of_outOfRange hi _
  | setPan ch eqp raw => cases hi; rfl
  | setVolume ch n => exact withChannel_withRange_of_outOfRange hi _
  | setMixer ch tn no en => cases hi; rfl
  | setNoisePeriod n => exact withRange_of_outOfRange hi _
  | setEnvPeriod n => exact withRange_of_outOfRange hi _
  | setEnvShape n => exact withRange_of_outOfRange hi _
  | advance | removeDc | readSample => exact hi.elim

theorem withValid_of_not_valid (h : s.engine.out.valid = false) (k : Result) :
    withValid s k = .next (s.rejectedWith .notValid) := by
  rw [withValid, h]
  rfl

/-- Settles O11: the listed operands raise it, and no other answer carries that status. -/
theorem outOfRangeExactlyAsListed : Obligations.OutOfRangeExactlyAsListed := by
  refine fun i s => ⟨fun h => ?_, fun hi => exec_of_outOfRangeOperand hi s⟩
  generalize ht : s.rejectedWith .outOfRange = t at h
  have hresponse : t.response = some ⟨.outOfRange, none⟩ := by rw [← ht]; rfl
  cases exec_answer h with
  | outOfRange hi => exact hi
  | notValid | completed | sample => cases hresponse

/-- Settles O12: both commands are behind the validity check. -/
theorem notValidBeforeFirstAdvance : Obligations.NotValidBeforeFirstAdvance :=
  fun _ h => ⟨withValid_of_not_valid h _, withValid_of_not_valid h _⟩

theorem OutOfRangeOperand.isSet (h : OutOfRangeOperand i) : IsSet i :=
  ⟨by rintro rfl; exact h, by rintro rfl; exact h, by rintro rfl; exact h⟩

/-- Settles O10: the codes are the table's, and the errors those of `CommandAnswer`. -/
theorem commandErrorsAsTabled : Obligations.CommandErrorsAsTabled := by
  refine ⟨⟨rfl, rfl, rfl, rfl, rfl, rfl⟩, fun i s t h => ?_⟩
  cases exec_answer h with
  | outOfRange hi => exact ⟨_, rfl, .inr (.inl ⟨rfl, hi.isSet⟩)⟩
  | notValid hi => exact ⟨_, rfl, .inr (.inr ⟨rfl, hi⟩)⟩
  | completed | sample => exact ⟨_, rfl, .inl rfl⟩

/-! ### A command word (R227) -/

theorem step_of_command {w : CommandWord} {rest : List HostInput} (hin : s.inputs = .command w :: rest) :
    step s = executeWord w { s with inputs := rest } := by
  rw [step, takeInput, hin]

/-- A word that is answered was turned away at admission, or its command was run. -/
theorem executeWord_next {w : CommandWord} (h : executeWord w s = .next t) :
    (∃ err, err ≠ .ok ∧ t = s.rejectedWith err) ∨ ∃ i, decode w = .ok i ∧ exec i s = .next t := by
  obtain ⟨err, herr, hx⟩ | ⟨i, -, -, hdecode, hx⟩ := executeWord_cases w s
  · refine .inl ⟨err, ?_, (Host.Outcome.next.inj (hx.symm.trans h)).symm⟩
    obtain rfl | rfl | rfl := herr <;> nofun
  · exact .inr ⟨i, hdecode, hx.symm.trans h⟩

/-- An error, of admission or of the command's rule, is a rejection. -/
theorem executeWord_error {w : CommandWord} (h : executeWord w s = .next t) {r : Response} (hr : t.response = some r)
    (herr : r.status ≠ .ok) : t = s.rejectedWith r.status := by
  obtain ⟨err, -, rfl⟩ | ⟨i, -, hexec⟩ := executeWord_next h
  · cases hr
    rfl
  · exact (exec_answer hexec).eq_rejectedWith hr herr

theorem executeWord_inputs {w : CommandWord} (h : executeWord w s = .next t) : t.inputs = s.inputs := by
  obtain ⟨err, -, rfl⟩ | ⟨i, -, hexec⟩ := executeWord_next h
  · rfl
  · exact (exec_answer hexec).inputs_eq

/-- Settles O6: admission passes the word on, and it decodes. -/
theorem stepRunsDecodedInstruction : Obligations.StepRunsDecodedInstruction := by
  intro s w rest i hin hcfg hfatal hdecode
  have hadmit := (admissionError_none_iff s.engine).2 ⟨hcfg, hfatal⟩
  rw [step_of_command hin, executeWord, hadmit, hdecode]

/-- Settles O7, by the order of the checks in `admissionError` and `executeWord`. -/
theorem admissionErrorsInPriorityOrder : Obligations.AdmissionErrorsInPriorityOrder := by
  intro s w rest hin
  rw [step_of_command hin, executeWord, admissionError]
  refine ⟨fun hcfg => ?_, fun hcfg hfatal => ?_, fun hcfg hfatal ⟨r, hdecode⟩ => ?_⟩
  · rw [hcfg]
    rfl
  · rw [hcfg, hfatal]
    rfl
  · rw [hcfg, hfatal, hdecode]
    rfl

/-- Settles O8: an error is a rejection of the state with the word taken off the host's list. -/
theorem errorResponseChangesNothing : Obligations.ErrorResponseChangesNothing := by
  intro s t w rest ⟨status, data⟩ hin hstep hr herr
  rw [step_of_command hin] at hstep
  obtain rfl := executeWord_error hstep hr herr
  cases hr
  exact ⟨rfl, rfl, rfl⟩

/-- Settles O9: a rejection has no DATA and a status other than OK; of the answers with OK only READ_SAMPLE's has
DATA. -/
theorem responseDataOnlyFromReadSample : Obligations.ResponseDataOnlyFromReadSample := by
  intro s t w rest hin hstep
  rw [step_of_command hin] at hstep
  obtain ⟨err, herr, rfl⟩ | ⟨i, hdecode, hexec⟩ := executeWord_next hstep
  · exact ⟨_, rfl, iff_of_false (· rfl) fun ⟨hok, _⟩ => herr hok, fun hdata => absurd rfl hdata⟩
  · rw [hdecode, Except.ok.injEq]
    cases exec_answer hexec with
    | outOfRange | notValid =>
      exact ⟨_, rfl, iff_of_false (· rfl) (fun ⟨hok, _⟩ => nomatch hok), fun hdata => absurd rfl hdata⟩
    | completed hi =>
      exact ⟨_, rfl, iff_of_false (· rfl) fun ⟨_, hread⟩ => hi hread, fun hdata => absurd rfl hdata⟩
    | sample hi => exact ⟨_, rfl, iff_of_true nofun ⟨rfl, hi⟩, fun _ => rfl⟩

/-- Settles O13, by the input found: neither RESET nor a word touches the rest of the list. -/
theorem everyStepTakesTheNextInput : Obligations.EveryStepTakesTheNextInput := by
  intro s t i rest hin hstep
  cases i with
  | command w =>
    rw [step_of_command hin] at hstep
    exact executeWord_inputs hstep
  | reset st =>
    rw [step_of_reset hin, Host.Outcome.next.injEq] at hstep
    rw [← hstep, applyReset_inputs]

/-- Settles O15: a command with an effect was admitted, so found `cfg_ok = 1` and `fatal = 0`. -/
theorem onlyResetLeavesInvalidConfigAndFatal : Obligations.OnlyResetLeavesInvalidConfigAndFatal := by
  constructor
  · intro s t w rest hin hstep
    obtain ⟨st, rest', hreset, -⟩ | ht | ⟨hcfg, hfatal, -⟩ := step_engine_cases hstep
    · rw [hin] at hreset
      cases hreset
    · rw [ht]
      exact ⟨id, id⟩
    · rw [hcfg, hfatal]
      exact ⟨nofun, nofun⟩
  · intro s t st rest hin hstep hclk hout
    rw [step_of_reset hin, Host.Outcome.next.injEq] at hstep
    rw [← hstep, applyReset_engine, resetEngine_config, resetConfig_cfgOk, strapsValid_iff]
    exact ⟨⟨hclk, hout⟩, rfl⟩

/-! ### Every sequence of inputs has an outcome (R255) -/

theorem withChannel_completes (ch : ChannelField) {k : Channel → Result} (hk : ∀ c, ∃ t, k c = .next t) :
    ∃ t, withChannel ch s k = .next t := by
  cases ch with
  | none => exact ⟨_, rfl⟩
  | some c => exact hk c

theorem withRange_completes (top : Nat) (n : Int) (e : Engine) : ∃ t, withRange top n s (accept e s) = .next t := by
  unfold withRange
  split <;> exact ⟨_, rfl⟩

theorem withValid_completes (st : Status) (d : Option (Sample × Sample)) (e : Engine) :
    ∃ t, withValid s (answer st d e s) = .next t := by
  unfold withValid
  split <;> exact ⟨_, rfl⟩

/-- Only ADVANCE can stop the machine, and not while OUT_HZ is positive. -/
theorem exec_completes (i : Instr) (hout : 0 < s.engine.config.outHz) : ∃ t, exec i s = .next t := by
  cases i with
  | setTonePeriod ch n => exact withChannel_completes ch fun c => withRange_completes 65535 n _
  | setPan ch eqp raw => exact withChannel_completes ch fun c => ⟨_, rfl⟩
  | setVolume ch n => exact withChannel_completes ch fun c => withRange_completes 15 n _
  | setMixer ch tn no en => exact withChannel_completes ch fun c => ⟨_, rfl⟩
  | setNoisePeriod n => exact withRange_completes 31 n _
  | setEnvPeriod n => exact withRange_completes 65535 n _
  | setEnvShape n => exact withRange_completes 15 n _
  | advance =>
    obtain ⟨e, -, hnext⟩ := execAdvanceWith_next (P := Config.params) hout
    exact ⟨_, hnext⟩
  | removeDc => exact withValid_completes .ok none _
  | readSample => exact withValid_completes .ok _ _

/-- R21: a valid configuration has a positive OUT_HZ, so a state that admits a command lets it complete. -/
theorem step_completes (h : s.Inv) : ∃ t, step s = .next t := by
  obtain ⟨-, hs⟩ | ⟨st, rest, -, hs⟩ | ⟨w, rest, -, hs⟩ := step_cases s
  · exact ⟨_, hs⟩
  · exact ⟨_, hs⟩
  · obtain ⟨err, -, hx⟩ | ⟨i, hcfg, -, -, hx⟩ := executeWord_cases w { s with inputs := rest }
    · exact ⟨_, hs.trans hx⟩
    · have hconfig := h.config
      rw [ConfigLatch.Ok, if_pos hcfg] at hconfig
      obtain ⟨-, hout⟩ := hconfig
      obtain ⟨t, ht⟩ := exec_completes (s := { s with inputs := rest }) i hout
      exact ⟨t, hs.trans (hx.trans ht)⟩

theorem run_succ_of_step {M : Host.Core} {x y : M.State} (h : M.step x = .next y) (n : Nat) :
    M.run (n + 1) x = M.run n y := by
  rw [Host.Core.run, h]

/-- Settles O60, by induction on the number of steps: each completes (`step_completes`) and keeps the invariant
(O59). -/
theorem everySequenceHasAnOutcome : Obligations.EverySequenceHasAnOutcome := by
  intro s n hs
  induction n generalizing s with
  | zero => exact ⟨s, rfl⟩
  | succ n ih =>
    obtain ⟨t, ht⟩ := step_completes hs
    obtain ⟨u, hu⟩ := ih t (stepKeepsInvariant s t hs ht)
    exact ⟨u, (run_succ_of_step (M := core) ht n).trans hu⟩

end Sys2Proof.Machine
end

section
/-! PROOFS of the statements about what a command leaves unchanged (10_state.md R21 to R42) and about the two stereo
sides (48_output.md R217). What a command does to one channel is said once, by `ToneEffect`; with `CommandEffect` it
gives the frame, field by field. The sides stay alike because both take the same mix. -/

namespace Sys2Proof.Machine

variable {P : Params}

/-! ### What a command does to one channel -/

/-- Ticks write a channel's counter and level only (R112). -/
theorem iterate_toneStep_writes (t : ToneChannel) (k : Nat) :
    ∃ counter level, toneStep^[k] t = { t with counter := counter, level := level } := by
  induction k with
  | zero => exact ⟨t.counter, t.level, rfl⟩
  | succ k ih =>
    obtain ⟨counter, level, hk⟩ := ih
    rw [Function.iterate_succ_apply', hk, toneStep]
    split <;> exact ⟨_, _, rfl⟩

/-- The change of the state of channel `c`, from `t`, by a command that answers a next state. -/
inductive ToneEffect (P : Params) (c : Channel) (t : ToneChannel) : Instr → ToneChannel → Prop
  | unchanged (i : Instr) : ToneEffect P c t i t
  | setTonePeriod (n : Int) : ToneEffect P c t (.setTonePeriod (some c) n) { t with period := BitVec.ofInt 16 n }
  | setPan (eqp : Bool) (raw : Int) :
      ToneEffect P c t (.setPan (some c) eqp raw)
        { t with panLeft := (panWeights P eqp (panOf raw)).1, panRight := (panWeights P eqp (panOf raw)).2 }
  | setVolume (n : Int) : ToneEffect P c t (.setVolume (some c) n) { t with volume := BitVec.ofInt 4 n }
  | setMixer (tn no en : Bool) :
      ToneEffect P c t (.setMixer (some c) tn no en) { t with tOff := !tn, nOff := !no, eOn := en }
  | ticks (counter : BitVec 16) (level : Bool) : ToneEffect P c t .advance { t with counter := counter, level := level }

/-- A write to channel `c'` has its effect on that channel and none on another. -/
theorem ToneEffect.of_setTone {i : Instr} {e : Engine} {c c' : Channel} {x : ToneChannel}
    (h : c = c' → ToneEffect P c (e.tone.get c) i x) :
    ToneEffect P c (e.tone.get c) i ((e.setTone c' x).tone.get c) := by
  rw [Engine.setTone_tone]
  by_cases hc : c = c'
  · rw [← hc, Channels.get_set_same]
    exact h hc
  · rw [Channels.get_set_other _ hc]
    exact .unchanged i

theorem CommandEffect.tone {i : Instr} {e e' : Engine} (heff : CommandEffect P i e e') (c : Channel) :
    ToneEffect P c (e.tone.get c) i (e'.tone.get c) := by
  cases heff with
  | setTonePeriod c' n => exact .of_setTone fun hc => hc ▸ .setTonePeriod n
  | setPan c' eqp raw => exact .of_setTone fun hc => hc ▸ .setPan eqp raw
  | setVolume c' n => exact .of_setTone fun hc => hc ▸ .setVolume n
  | setMixer c' tn no en => exact .of_setTone fun hc => hc ▸ .setMixer tn no en
  | advance _ e₁ hloop =>
    obtain ⟨k, hstepped, -⟩ := advanceLoop_stepped hloop
    obtain ⟨counter, level, hticks⟩ := iterate_toneStep_writes (e.tone.get c) k
    rw [latchFir_tone, hstepped.tone, hticks]
    exact .ticks counter level
  | _ => exact .unchanged _

section ToneFrame
variable {c : Channel} {i : Instr} {t t' : ToneChannel} (h : ToneEffect P c t i t')
include h

theorem ToneEffect.period_eq (hi : ∀ n, i ≠ .setTonePeriod (some c) n) : t'.period = t.period := by
  cases h with
  | setTonePeriod n => exact absurd rfl (hi n)
  | _ => rfl

theorem ToneEffect.volume_eq (hi : ∀ n, i ≠ .setVolume (some c) n) : t'.volume = t.volume := by
  cases h with
  | setVolume n => exact absurd rfl (hi n)
  | _ => rfl

theorem ToneEffect.mixer_eq (hi : ∀ x y z, i ≠ .setMixer (some c) x y z) :
    t'.tOff = t.tOff ∧ t'.nOff = t.nOff ∧ t'.eOn = t.eOn := by
  cases h with
  | setMixer tn no en => exact absurd rfl (hi tn no en)
  | _ => exact ⟨rfl, rfl, rfl⟩

theorem ToneEffect.pan_eq (hi : ∀ f p, i ≠ .setPan (some c) f p) :
    t'.panLeft = t.panLeft ∧ t'.panRight = t.panRight := by
  cases h with
  | setPan eqp raw => exact absurd rfl (hi eqp raw)
  | _ => exact ⟨rfl, rfl⟩

theorem ToneEffect.running_eq (hi : i ≠ .advance) : t'.counter = t.counter ∧ t'.level = t.level := by
  cases h with
  | ticks => exact absurd rfl hi
  | _ => exact ⟨rfl, rfl⟩

end ToneFrame

/-! ### What a command leaves unchanged elsewhere -/

theorem noiseStep_period (n : NoiseState) : (noiseStep P n).period = n.period := by
  unfold noiseStep
  split <;> rfl

theorem envStep_period (e : EnvState) : (envStep P e).period = e.period := by
  unfold envStep
  split
  · exact envAdvance_period _
  · rfl

theorem envBoundary_shape (e : EnvState) : (envBoundary P e).shape = e.shape := by
  unfold envBoundary
  split_ifs <;> rfl

theorem envStep_shape (e : EnvState) : (envStep P e).shape = e.shape := by
  unfold envStep envAdvance
  split
  · split
    · rfl
    · split <;> split
      · rfl
      · exact envBoundary_shape _
      · rfl
      · exact envBoundary_shape _
  · rfl

section Frame
variable {i : Instr} {e e' : Engine} (heff : CommandEffect P i e e')
include heff

theorem CommandEffect.noisePeriod_eq (hi : ∀ n, i ≠ .setNoisePeriod n) : e'.noise.period = e.noise.period := by
  cases heff with
  | setNoisePeriod n => exact absurd rfl (hi n)
  | advance _ _ hloop =>
    rw [latchFir_noise]
    exact advanceLoop_frame (field := (·.noise.period)) (fun x => noiseStep_period x.noise) (fun _ => rfl) hloop
  | _ => rfl

theorem CommandEffect.envPeriod_eq (hi : ∀ n, i ≠ .setEnvPeriod n) : e'.env.period = e.env.period := by
  cases heff with
  | setEnvPeriod n => exact absurd rfl (hi n)
  | advance _ _ hloop =>
    rw [latchFir_env]
    exact advanceLoop_frame (field := (·.env.period)) (fun x => envStep_period x.env) (fun _ => rfl) hloop
  | _ => rfl

theorem CommandEffect.envShape_eq (hi : ∀ n, i ≠ .setEnvShape n) : e'.env.shape = e.env.shape := by
  cases heff with
  | setEnvShape n => exact absurd rfl (hi n)
  | advance _ _ hloop =>
    rw [latchFir_env]
    exact advanceLoop_frame (field := (·.env.shape)) (fun x => envStep_shape x.env) (fun _ => rfl) hloop
  | _ => rfl

/-- Outside the channels and the envelope, ADVANCE alone runs anything. -/
theorem CommandEffect.running_eq (hi : i ≠ .advance) :
    e'.noise.counter = e.noise.counter ∧ e'.noise.lfsr = e.noise.lfsr ∧ e'.noise.bit = e.noise.bit ∧
    e'.phase = e.phase ∧ e'.interp = e.interp ∧ e'.fir = e.fir ∧ e'.out.valid = e.out.valid := by
  cases heff with
  | advance => exact absurd rfl hi
  | _ => exact ⟨rfl, rfl, rfl, rfl, rfl, rfl, rfl⟩

theorem CommandEffect.envRunning_eq (hadvance : i ≠ .advance) (hshape : ∀ n, i ≠ .setEnvShape n) :
    e'.env.counter = e.env.counter ∧ e'.env.value = e.env.value ∧ e'.env.dir = e.env.dir ∧
    e'.env.frozen = e.env.frozen := by
  cases heff with
  | advance => exact absurd rfl hadvance
  | setEnvShape n => exact absurd rfl (hshape n)
  | _ => exact ⟨rfl, rfl, rfl, rfl⟩

theorem CommandEffect.dc_eq (hi : i ≠ .removeDc) : e'.dc = e.dc := by
  cases heff with
  | removeDc => exact absurd rfl hi
  | advance _ _ hloop => rw [latchFir_dc, advanceLoop_dc hloop]
  | _ => rfl

theorem CommandEffect.out_eq (hadvance : i ≠ .advance) (hremove : i ≠ .removeDc) :
    e'.out = e.out ∧ e'.fatal = e.fatal := by
  cases heff with
  | advance => exact absurd rfl hadvance
  | removeDc => exact absurd rfl hremove
  | _ => exact ⟨rfl, rfl⟩

theorem CommandEffect.valid_kept (h : e.out.valid = true) : e'.out.valid = true := by
  cases heff with
  | advance => rfl
  | _ => exact h

theorem CommandEffect.fatal_kept (h : e.fatal = true) : e'.fatal = true := by
  cases heff with
  | advance _ _ hloop => rw [latchFir_fatal, advanceLoop_fatal hloop, h, Bool.true_or]
  | removeDc => rw [filterOutput_fatal, h, Bool.true_or]
  | _ => exact h

end Frame

/-- Settles O27, element by element: the effect of a command on the channels and on the rest of the engine. -/
theorem elementsWrittenOnlyByTheirCommands : Obligations.ElementsWrittenOnlyByTheirCommands := by
  intro i s t h
  have heff := exec_effect h
  exact ⟨heff.config_eq, (exec_answer h).inputs_eq,
    fun c => (heff.tone c).period_eq, fun c => (heff.tone c).volume_eq,
    fun c => (heff.tone c).mixer_eq, fun c => (heff.tone c).pan_eq,
    heff.noisePeriod_eq, heff.envPeriod_eq, heff.envShape_eq,
    fun hi => ⟨fun c => (heff.tone c).running_eq hi, heff.running_eq hi⟩, heff.envRunning_eq,
    heff.dc_eq, heff.out_eq, heff.valid_kept, heff.fatal_kept⟩

/-! ### The two sides (48_output.md R217) -/

/-- A channel that contributes alike at the native ticks ahead adds the same product to either side. -/
theorem Engine.ContributesAlike.mul_eq {e : Engine} {c : Channel} (h : e.ContributesAlike P c) (k : Nat) :
    P.num.mul (channelAmp P e.config.variant ((noiseStep P)^[k + 1] e.noise).bit ((envStep P)^[k + 1] e.env).value
        (toneStep^[k + 1] (e.tone.get c))) (toneStep^[k + 1] (e.tone.get c)).panLeft =
      P.num.mul (channelAmp P e.config.variant ((noiseStep P)^[k + 1] e.noise).bit ((envStep P)^[k + 1] e.env).value
        (toneStep^[k + 1] (e.tone.get c))) (toneStep^[k + 1] (e.tone.get c)).panRight := by
  obtain ⟨counter, level, hticks⟩ := iterate_toneStep_writes (e.tone.get c) (k + 1)
  have hleft : (toneStep^[k + 1] (e.tone.get c)).panLeft = (e.tone.get c).panLeft := by rw [hticks]
  have hright : (toneStep^[k + 1] (e.tone.get c)).panRight = (e.tone.get c).panRight := by rw [hticks]
  rw [hleft, hright]
  obtain hpan | ⟨hzero, hsilent⟩ := h
  · rw [hpan]
  · rw [hsilent k, hzero]

theorem mixSide_congr {N : Numerics} {amp weight weight' : Channels Amp}
    (h : ∀ c, N.mul (amp.get c) (weight.get c) = N.mul (amp.get c) (weight'.get c)) :
    mixSide N amp weight = mixSide N amp weight' := by
  have hA := h .A
  have hB := h .B
  have hC := h .C
  simp only [Channels.get_A, Channels.get_B, Channels.get_C] at hA hB hC
  rw [mixSide, mixSide, hA, hB, hC]

/-- Where every channel contributes alike, the sample of the next native tick is alike on both sides. -/
theorem Engine.Stepped.rawSample_alike {e x : Engine} {m k : Nat} (hx : e.Stepped P m k x)
    (h : ∀ c, e.ContributesAlike P c) :
    (rawSample P (stepGenerators P x)).left = (rawSample P (stepGenerators P x)).right := by
  have hnext := hx.loopTick
  refine mixSide_congr fun c => ?_
  have htone : (x.tone.map toneStep).get c = toneStep^[k + 1] (e.tone.get c) := hnext.tone c
  have hnoise : noiseStep P x.noise = (noiseStep P)^[k + 1] e.noise := hnext.noise
  have henv : envStep P x.env = (envStep P)^[k + 1] e.env := hnext.env
  rw [Channels.get_map, Channels.get_map, Channels.get_map, stepGenerators_tone, stepGenerators_noise,
    stepGenerators_env, stepGenerators_config, htone, hnoise, henv, hx.config]
  exact (h c).mul_eq k

section SidesAlike
variable {e : Engine} (h : e.SidesAlike)
include h

theorem Engine.SidesAlike.loopTick
    (hraw : (rawSample P (stepGenerators P e)).left = (rawSample P (stepGenerators P e)).right) :
    (loopTick P e).SidesAlike where
  interp := by rw [loopTick_interp, h.interp, hraw]
  fir := h.fir
  dc := h.dc
  out := h.out

theorem Engine.SidesAlike.loopEmit : (loopEmit P e).SidesAlike where
  interp := h.interp
  fir := by rw [loopEmit_fir_left, loopEmit_fir_right, h.interp, h.fir]
  dc := h.dc
  out := h.out

theorem Engine.SidesAlike.latchFir : (latchFir P e).SidesAlike where
  interp := h.interp
  fir := h.fir
  dc := h.dc
  out := by rw [latchFir_left, latchFir_right, h.fir]

theorem Engine.SidesAlike.filterOutput : (filterOutput P.num e).SidesAlike where
  interp := h.interp
  fir := h.fir
  dc := by rw [filterOutput_dc, h.dc, h.out]
  out := by rw [filterOutput_left, filterOutput_right, h.dc, h.out]

/-- The loop keeps the sides alike, tick by tick as the channels contribute. -/
theorem Engine.SidesAlike.advanceLoop (hc : ∀ c, e.ContributesAlike P c) {fuel : Nat} {e' : Engine}
    (hloop : advanceLoop P fuel 0 e = some e') : e'.SidesAlike := by
  have hkept : e'.SidesAlike ∧ ∃ k, e.Stepped P 8 k e' := by
    refine advanceLoop_keeps (Q := fun m x => x.SidesAlike ∧ ∃ k, e.Stepped P m k x) ?_ ?_ fuel 0 e e'
      (Nat.zero_le 8) ⟨h, 0, .refl e⟩ hloop
    · rintro m x - - ⟨hx, k, hstepped⟩
      exact ⟨hx.loopTick (hstepped.rawSample_alike hc), k + 1, hstepped.loopTick⟩
    · rintro m x - hdue ⟨hx, k, hstepped⟩
      exact ⟨hx.loopEmit, k, hstepped.loopEmit hdue⟩
  exact hkept.1

end SidesAlike

/-- Of the commands only ADVANCE needs a condition on the channels. -/
theorem CommandEffect.sidesAlike {i : Instr} {e e' : Engine} (heff : CommandEffect P i e e') (h : e.SidesAlike)
    (hc : i = .advance → ∀ c, e.ContributesAlike P c) : e'.SidesAlike := by
  cases heff with
  | advance _ _ hloop => exact (h.advanceLoop (hc rfl) hloop).latchFir
  | removeDc => exact h.filterOutput
  | _ => exact ⟨h.interp, h.fir, h.dc, h.out⟩

theorem ToneEffect.pan_alike {c : Channel} {i : Instr} {t t' : ToneChannel} (h : ToneEffect P c t i t')
    (hset : ∀ eqp raw, i = .setPan (some c) eqp raw →
      (panWeights P eqp (panOf raw)).1 = (panWeights P eqp (panOf raw)).2)
    (ht : t.panLeft = t.panRight) : t'.panLeft = t'.panRight := by
  cases h with
  | setPan eqp raw => exact hset eqp raw rfl
  | _ => exact ht

/-- A command that is not a SET_PAN with unequal weights keeps the engine symmetric. -/
theorem CommandEffect.symmetric {i : Instr} {e e' : Engine} (heff : CommandEffect P i e e') (h : e.Symmetric)
    (hset : ∀ c eqp raw, i = .setPan (some c) eqp raw →
      (panWeights P eqp (panOf raw)).1 = (panWeights P eqp (panOf raw)).2) : e'.Symmetric where
  pan c := (heff.tone c).pan_alike (hset c) (h.pan c)
  sides := heff.sidesAlike h.sides fun _ c => .inl (h.pan c)

theorem resetEngine_symmetric (st : Straps) : (resetEngine P st).Symmetric where
  pan c := by rw [resetEngine_tone]; rfl
  sides := ⟨rfl, rfl, rfl, rfl⟩

/-- Settles O57: RESET makes the machine symmetric, an input turned away leaves the engine alone, and a command has an
effect that keeps the sides alike. -/
theorem leftRightSymmetryKept : Obligations.LeftRightSymmetryKept := by
  refine ⟨fun s t hs hinput hstep => ?_, fun P s t hs h => ?_, fun P s t hs => ⟨fun hc h => ?_, fun h => ?_⟩⟩
  · obtain ⟨-, hidle⟩ | ⟨st, rest, -, hreset⟩ | ⟨w, rest, hin, hword⟩ := step_cases s
    · cases hidle.symm.trans hstep
      exact hs
    · cases hreset.symm.trans hstep
      exact resetEngine_symmetric st
    · obtain ⟨err, -, rfl⟩ | ⟨i, hdecode, hexec⟩ := executeWord_next (hword.symm.trans hstep)
      · exact hs
      · refine (exec_effect hexec).symmetric hs fun c eqp raw hi => ?_
        by_contra hne
        exact hinput (.command w) (by rw [hin]; rfl) ⟨w, c, eqp, raw, rfl, hi ▸ hdecode, hne⟩
  · obtain h | h := h
    · exact (execAdvanceWith_effect h).symmetric hs nofun
    · exact (execRemoveDcWith_effect h).symmetric hs nofun
  · exact (execAdvanceWith_effect h).sidesAlike hs fun _ => hc
  · exact (execRemoveDcWith_effect h).sidesAlike hs nofun

end Sys2Proof.Machine
end

section
/-! PROOFS of the statements about illegal words and the spec's example words (30_encoding.md). Each format's refusals
are the complement of what it accepts. -/

namespace Sys2Proof

/-! ### What each format refuses (R84) -/

theorem exists_error_iff {x : Except Illegal Instr} : (∃ r, x = .error r) ↔ ¬∃ i, x = .ok i := by
  cases x <;> simp

section Refusals
variable (w : CommandWord) (i : Instr)

theorem formatC_refuses_iff : (∃ r, formatC w i = .error r) ↔ fieldF w ≠ 0#1 := by
  simp only [exists_error_iff, formatC_eq_ok_iff, exists_and_left, exists_eq', and_true, ne_eq]

theorem formatM_refuses_iff :
    (∃ r, formatM w i = .error r) ↔ fieldF w ≠ 0#1 ∨ (fieldARG w).extractLsb' 3 29 ≠ 0#29 := by
  simp only [exists_error_iff, formatM_eq_ok_iff, exists_and_left, exists_eq', and_true, ne_eq, not_and_or]

theorem formatS_refuses_iff : (∃ r, formatS w i = .error r) ↔ fieldF w ≠ 0#1 ∨ fieldCH w ≠ 0#2 := by
  simp only [exists_error_iff, formatS_eq_ok_iff, exists_and_left, exists_eq', and_true, ne_eq, not_and_or]
  exact or_comm

theorem formatN_refuses_iff :
    (∃ r, formatN w i = .error r) ↔ fieldF w ≠ 0#1 ∨ fieldCH w ≠ 0#2 ∨ fieldARG w ≠ 0#32 := by
  simp only [exists_error_iff, formatN_eq_ok_iff, exists_and_left, exists_eq', and_true, ne_eq, not_and_or]
  tauto

theorem decode_refuses_iff :
    (∃ r, decode w = .error r) ↔ fieldRSV w ≠ 0#25 ∨ ∃ r, decodeRow w = .error r := by
  simp only [exists_error_iff, decode_eq_ok_iff, exists_and_left, ne_eq, not_and_or]

end Refusals

/-- A field read as the number `k` is the field value `k`. -/
theorem eq_ofNat_of_toNat_eq {n k : Nat} {x : BitVec n} (h : x.toNat = k) : x = BitVec.ofNat n k := by
  rw [← h, BitVec.ofNat_toNat, BitVec.setWidth_eq]

/-- Settles O4, by the row OP selects: its format refuses the word, or OP is reserved. -/
theorem decodeRefusesExactlyIllegalWords : Obligations.DecodeRefusesExactlyIllegalWords := by
  intro w
  rw [decode_refuses_iff]
  unfold decodeRow
  split
  case h_1 hOP | h_3 hOP => -- format C
    simp [formatC_refuses_iff, eq_ofNat_of_toNat_eq hOP]
  case h_2 hOP => -- format P
    simp [eq_ofNat_of_toNat_eq hOP]
  case h_4 hOP => -- format M
    simp [formatM_refuses_iff, eq_ofNat_of_toNat_eq hOP]
  case h_5 hOP | h_6 hOP | h_7 hOP => -- format S
    simp [formatS_refuses_iff, eq_ofNat_of_toNat_eq hOP]
  case h_8 hOP | h_9 hOP | h_10 hOP => -- format N
    simp [formatN_refuses_iff, eq_ofNat_of_toNat_eq hOP]
  case h_11 => -- no row
    simp only [imp_false] at *
    have hreserved : fieldOP w = 0#4 ∨ 11 ≤ (fieldOP w).toNat := by bv_omega
    exact iff_of_true (.inr ⟨_, rfl⟩) (or_assoc.1 (.inl hreserved))

/-- Settles O5, each word by running the decoder on it. -/
theorem specWordsDecode : Obligations.SpecWordsDecode := by
  refine ⟨?_, ?_, ?_, ?_, ?_, ?_, ?_, ?_, ?_, ?_, .reservedOpcode, ?_⟩
  all_goals decide

end Sys2Proof
end

section
/-! PROOFS of the statements about RESET (70_reset_and_hazards.md section 1) and about the SET commands (section 2).
The engine that an accepted SET command completes with is said once, by `setWrites`; what it stores is read off. -/

namespace Sys2Proof.Machine

/-! ### RESET (R250) -/

theorem resetConfig_of_invalid {st : Straps} (h : ¬(0 < st.clkHz.toInt ∧ 0 < st.outHz.toInt)) :
    resetConfig st = ⟨false, st.variant, 0, 0⟩ :=
  if_neg (mt (strapsValid_iff st).1 h)

theorem resetConfig_of_valid {st : Straps} (h : 0 < st.clkHz.toInt ∧ 0 < st.outHz.toInt) :
    resetConfig st = ⟨true, st.variant, st.clkHz.toInt.toNat, st.outHz.toInt.toNat⟩ :=
  if_pos ((strapsValid_iff st).2 h)

theorem resetConfig_variant (st : Straps) : (resetConfig st).variant = st.variant := by
  unfold resetConfig
  split <;> rfl

/-- Settles O14: the latch is `resetConfig` of the straps, and every other element is listed in `resetEngine`. -/
theorem resetInputRebuildsTheEngine : Obligations.ResetInputRebuildsTheEngine := by
  intro s st rest hin
  refine ⟨_, step_of_reset hin, rfl, rfl, resetConfig_variant st, fun hclk hout => ?_, fun hinvalid => ?_,
    fun c => by cases c <;> rfl, rfl, rfl, rfl, fun side => by cases side <;> rfl, fun side => ?_, fun side => ?_,
    rfl, rfl⟩
  · rw [applyReset_engine, resetEngine_config, resetConfig_of_valid ⟨hclk, hout⟩]
    exact ⟨rfl, Int.toNat_of_nonneg hclk.le, Int.toNat_of_nonneg hout.le⟩
  · rw [applyReset_engine, resetEngine_config, resetConfig_of_invalid hinvalid]
    exact ⟨rfl, rfl, rfl⟩
  · cases side <;> exact ⟨rfl, fun i => Vector.getElem_replicate i.isLt⟩
  · cases side <;> exact ⟨rfl, rfl, fun i => Vector.getElem_replicate i.isLt⟩

/-- Settles O17: RESET with any straps establishes the invariant. -/
theorem resetSatisfiesInvariant : Obligations.ResetSatisfiesInvariant :=
  ⟨by decide, rfl, fun st => resetEngine_inv Config.params st⟩

/-! ### What an accepted SET command completes with -/

/-- The engine with the register written that a SET command names. -/
def setWrites (P : Params) : Instr → Engine → Engine
  | .setTonePeriod (some c) n, e => e.setTone c { e.tone.get c with period := BitVec.ofInt 16 n }
  | .setPan (some c) eqp raw, e =>
    e.setTone c { e.tone.get c with
      panLeft := (panWeights P eqp (panOf raw)).1
      panRight := (panWeights P eqp (panOf raw)).2 }
  | .setVolume (some c) n, e => e.setTone c { e.tone.get c with volume := BitVec.ofInt 4 n }
  | .setMixer (some c) tn no en, e => e.setTone c { e.tone.get c with tOff := !tn, nOff := !no, eOn := en }
  | .setNoisePeriod n, e => { e with noise := { e.noise with period := BitVec.ofInt 5 n } }
  | .setEnvPeriod n, e => { e with env := { e.env with period := BitVec.ofInt 16 n } }
  | .setEnvShape n, e => { e with env := envRestart P (BitVec.ofInt 4 n) e.env }
  | _, e => e

theorem withRange_of_accepted {top : Nat} {n : Int} (h : ¬(n < 0 ∨ (top : Int) < n)) (s : State) (k : Result) :
    withRange top n s k = k :=
  withRange_of_mem (by omega) (by omega) s k

/-- A SET command with no operand of R223's list completes with its register written. -/
theorem exec_of_accepted {i : Instr} (hset : IsSet i) (h : ¬OutOfRangeOperand i) (s : State) :
    exec i s = accept (setWrites Config.params i s.engine) s := by
  cases i with
  | setTonePeriod ch n =>
    obtain ⟨hch, hn⟩ := not_or.1 h
    obtain ⟨c, rfl⟩ := Option.ne_none_iff_exists'.1 hch
    exact withRange_of_accepted hn s _
  | setPan ch eqp raw =>
    obtain ⟨c, rfl⟩ := Option.ne_none_iff_exists'.1 h
    rfl
  | setVolume ch n =>
    obtain ⟨hch, hn⟩ := not_or.1 h
    obtain ⟨c, rfl⟩ := Option.ne_none_iff_exists'.1 hch
    exact withRange_of_accepted hn s _
  | setMixer ch tn no en =>
    obtain ⟨c, rfl⟩ := Option.ne_none_iff_exists'.1 h
    rfl
  | setNoisePeriod n => exact withRange_of_accepted h s _
  | setEnvPeriod n => exact withRange_of_accepted h s _
  | setEnvShape n => exact withRange_of_accepted h s _
  | advance | removeDc | readSample => simp [IsSet] at hset

/-! ### What is stored -/

theorem accepted_of_mem {top n : Int} (h0 : 0 ≤ n) (h1 : n ≤ top) : ¬(n < 0 ∨ top < n) := by omega

/-- Settles O18: the number's sixteen bits go to the channel's period. -/
theorem setTonePeriodStoresThePeriod : Obligations.SetTonePeriodStoresThePeriod := by
  intro c n s h0 h1
  have haccepted : ¬OutOfRangeOperand (.setTonePeriod (some c) n) := not_or.2 ⟨nofun, accepted_of_mem h0 h1⟩
  refine ⟨_, exec_of_accepted (i := .setTonePeriod (some c) n) ⟨nofun, nofun, nofun⟩ haccepted s, rfl,
    onlyToneChannel_setTone c _ s _, ?_⟩
  rw [setWrites, Engine.setTone_tone, Channels.get_set_same]
  exact ⟨toNat_ofInt_of_mem h0 (by omega), rfl⟩

/-- Settles O20: the three flags of one channel are written. -/
theorem setMixerStoresInvertedEnables : Obligations.SetMixerStoresInvertedEnables := by
  intro c tn no en s
  refine ⟨_, exec_of_accepted (i := .setMixer (some c) tn no en) ⟨nofun, nofun, nofun⟩ nofun s, rfl,
    onlyToneChannel_setTone c _ s _, ?_⟩
  rw [setWrites, Engine.setTone_tone, Channels.get_set_same]
  exact ⟨rfl, rfl, rfl, rfl⟩

/-- The clamped pan value, by where the operand lies. -/
theorem panOf_eq {raw : Int} {p : ℚ} (hlow : raw < 0 → p = 0) (hhigh : 65536 < raw → p = 1)
    (hmem : 0 ≤ raw → raw ≤ 65536 → p * 65536 = (raw : ℚ)) : panOf raw = p := by
  unfold panOf panRaw clampUnit
  obtain hneg | h0 := lt_or_ge raw 0
  · have hnegQ : (raw : ℚ) < 0 := Int.cast_lt_zero.2 hneg
    rw [if_pos (by linarith), hlow hneg]
  · have h0Q : 0 ≤ (raw : ℚ) := Int.cast_nonneg h0
    rw [if_neg (by linarith)]
    obtain hgt | h1 := lt_or_ge 65536 raw
    · have hgtQ : 65536 < (raw : ℚ) := by exact_mod_cast hgt
      rw [if_pos (by linarith), hhigh hgt]
    · have h1Q : (raw : ℚ) ≤ 65536 := by exact_mod_cast h1
      have hp := hmem h0 h1
      rw [if_neg (by linarith)]
      linarith

/-- Settles O21: the weights of the clamped value go to one channel. -/
theorem setPanStoresClampedWeights : Obligations.SetPanStoresClampedWeights := by
  intro c eqp raw s
  refine ⟨_, exec_of_accepted (i := .setPan (some c) eqp raw) ⟨nofun, nofun, nofun⟩ nofun s, rfl,
    onlyToneChannel_setTone c _ s _, ?_⟩
  rw [setWrites, Engine.setTone_tone, Channels.get_set_same]
  refine ⟨rfl, fun p hlow hhigh hmem => ?_⟩
  rw [panOf_eq hlow hhigh hmem]
  exact ⟨fun hlinear => hlinear ▸ ⟨rfl, rfl⟩, fun hequal => hequal ▸ ⟨rfl, rfl⟩⟩

/-- Settles O23: the number's five bits go to the noise period. -/
theorem setNoisePeriodStoresThePeriod : Obligations.SetNoisePeriodStoresThePeriod := fun n s h0 h1 =>
  ⟨_, exec_of_accepted (i := .setNoisePeriod n) ⟨nofun, nofun, nofun⟩ (accepted_of_mem h0 h1) s, rfl, ⟨rfl, rfl⟩,
    toNat_ofInt_of_mem h0 (by omega), rfl⟩

/-- Settles O24: the number's sixteen bits go to the envelope period. -/
theorem setEnvPeriodStoresThePeriod : Obligations.SetEnvPeriodStoresThePeriod := fun n s h0 h1 =>
  ⟨_, exec_of_accepted (i := .setEnvPeriod n) ⟨nofun, nofun, nofun⟩ (accepted_of_mem h0 h1) s, rfl, ⟨rfl, rfl⟩,
    toNat_ofInt_of_mem h0 (by omega), rfl⟩

/-- Settles O25: the envelope becomes its restart under the shape stored. -/
theorem setEnvShapeRestartsTheEnvelope : Obligations.SetEnvShapeRestartsTheEnvelope := fun n s h0 h1 =>
  ⟨_, exec_of_accepted (i := .setEnvShape n) ⟨nofun, nofun, nofun⟩ (accepted_of_mem h0 h1) s, rfl, ⟨rfl, rfl⟩,
    toNat_ofInt_of_mem h0 (by omega), rfl, rfl, rfl, rfl, rfl⟩

/-! ### Two writes to one register (R256) -/

@[simp] theorem Channels.set_set {α : Type} (x : Channels α) (c : Channel) (u v : α) :
    (x.set c u).set c v = x.set c v := by
  cases c <;> rfl

@[simp] theorem Engine.setTone_setTone (e : Engine) (c : Channel) (t u : ToneChannel) :
    (e.setTone c t).setTone c u = e.setTone c u := by
  simp only [Engine.setTone, Channels.set_set]

theorem accept_congr {e : Engine} {s t : State} (h : t.inputs = s.inputs) : accept e t = accept e s := by
  simp only [accept_eq, h]

theorem CommandEffect.unchanged_or_writes {P : Params} {i : Instr} {e e' : Engine} (heff : CommandEffect P i e e')
    (hset : IsSet i) : e' = e ∨ e' = setWrites P i e := by
  obtain ⟨hadvance, hremove, -⟩ := hset
  cases heff with
  | unchanged => exact .inl rfl
  | advance => exact absurd rfl hadvance
  | removeDc => exact absurd rfl hremove
  | _ => exact .inr rfl

/-- The second of two writes to one register hides the first. -/
theorem setWrites_setWrites {P : Params} {i j : Instr} (h : SameRegister i j) (e : Engine) :
    setWrites P j (setWrites P i e) = setWrites P j e := by
  unfold SameRegister at h
  split at h
  case h_1 ch _ _ _ | h_2 ch _ _ _ _ _ | h_3 ch _ _ _ | h_4 ch _ _ _ _ _ _ _ => -- a register of one channel
    subst h
    cases ch <;> simp [setWrites]
  case h_5 | h_6 | h_7 => rfl
  case h_8 => exact h.elim

theorem SameRegister.isSet {i j : Instr} (h : SameRegister i j) : IsSet i ∧ IsSet j := by
  unfold SameRegister at h
  split at h
  case h_8 => exact h.elim
  all_goals exact ⟨⟨nofun, nofun, nofun⟩, nofun, nofun, nofun⟩

/-- Settles O26: whether the first command was rejected or wrote its register, the accepted second one writes over
it. -/
theorem lastWriteWins : Obligations.LastWriteWins := by
  intro i j s t hreg haccepted hexec
  obtain ⟨hi, hj⟩ := hreg.isSet
  have hinputs := (exec_answer hexec).inputs_eq
  have hwrites : setWrites Config.params j t.engine = setWrites Config.params j s.engine := by
    obtain ht | ht := (exec_effect hexec).unchanged_or_writes hi
    · rw [ht]
    · rw [ht, setWrites_setWrites hreg]
  rw [exec_of_accepted hj haccepted, exec_of_accepted hj haccepted, hwrites, accept_congr hinputs]

end Sys2Proof.Machine
end

section
/-! PROOFS of the statements about one step of each generator, the DAC index, the interpolator, the DC filter and
READ_SAMPLE (40_tone_generator.md to 48_output.md). The two cases of a tone and of a noise step are those said above. -/

namespace Sys2Proof.Machine

variable {P : Params}

/-! ### Tone and noise (R112, R122) -/

/-- Settles O28, by the two cases of ToneStep. -/
theorem toneStepCountsAndToggles : Obligations.ToneStepCountsAndToggles := by
  refine fun t => ⟨toneStep_of_period_le, fun h => ?_⟩
  have hperiod := t.period.isLt
  rw [toneStep_of_lt_period h]
  exact ⟨Nat.mod_eq_of_lt (by omega), rfl⟩

/-- Settles O31, by the two cases of NoiseStep; the register written is read back whole, being of LFSR_WIDTH bits. -/
theorem noiseStepCountsAndShifts : Obligations.NoiseStepCountsAndShifts := by
  refine fun P n => ⟨fun h => ?_, fun h => ?_⟩
  · rw [noiseStep_of_period_le h, lfsrBits_noiseShift]
    exact ⟨rfl, rfl, rfl, rfl⟩
  · have hperiod := n.period.isLt
    rw [noiseStep_of_lt_period h]
    exact ⟨Nat.mod_eq_of_lt (by omega), rfl⟩

/-! ### Envelope (R134, R135) -/

theorem envAdvance_of_up {e : EnvState} (hrun : e.frozen = false) (hdir : e.dir = .up) (h : e.value.toNat < 31) :
    envAdvance P e = { e with value := e.value + 1#5 } := by
  simp [envAdvance, hrun, hdir, h]

theorem envAdvance_of_down {e : EnvState} (hrun : e.frozen = false) (hdir : e.dir = .down) (h : 0 < e.value.toNat) :
    envAdvance P e = { e with value := e.value - 1#5 } := by
  simp [envAdvance, hrun, hdir, h]

/-- The last value of either direction is the end of a segment. -/
theorem envAdvance_at_end {e : EnvState} (hrun : e.frozen = false)
    (hend : e.dir = .up ∧ e.value = 31#5 ∨ e.dir = .down ∧ e.value = 0#5) : envAdvance P e = envBoundary P e := by
  have hstep : e.AtStep 31 := by
    refine ⟨hrun, ?_⟩
    obtain ⟨hdir, hvalue⟩ | ⟨hdir, hvalue⟩ := hend <;> rw [hdir, hvalue, EnvDir.ramp]
  exact hstep.envAdvance_eq_boundary

section Boundary
variable {e : EnvState}

theorem envBoundary_once (hcont : (P.envFlags e.shape).cont = false) :
    envBoundary P e = { e with value := 0#5, frozen := true } := by
  rw [envBoundary, if_pos hcont]

theorem envBoundary_hold (hcont : (P.envFlags e.shape).cont = true) (hhold : (P.envFlags e.shape).hold = true)
    (halt : (P.envFlags e.shape).alt = false) : envBoundary P e = { e with frozen := true } := by
  simp [envBoundary, hcont, hhold, halt]

theorem envBoundary_holdAlternate (hcont : (P.envFlags e.shape).cont = true)
    (hhold : (P.envFlags e.shape).hold = true) (halt : (P.envFlags e.shape).alt = true) :
    envBoundary P e = { e with frozen := true, value := 31#5 - e.value } := by
  simp [envBoundary, hcont, hhold, halt]

theorem envBoundary_alternate (hcont : (P.envFlags e.shape).cont = true)
    (hhold : (P.envFlags e.shape).hold = false) (halt : (P.envFlags e.shape).alt = true) :
    envBoundary P e = { e with dir := e.dir.flip } := by
  simp [envBoundary, hcont, hhold, halt]

theorem envBoundary_repeat (hcont : (P.envFlags e.shape).cont = true)
    (hhold : (P.envFlags e.shape).hold = false) (halt : (P.envFlags e.shape).alt = false) :
    envBoundary P e = { e with value := if e.dir = .up then 0#5 else 31#5 } := by
  simp [envBoundary, hcont, hhold, halt]

end Boundary

theorem EnvDir.flip_ne (d : EnvDir) : d.flip ≠ d := by
  cases d <;> nofun

/-- Settles O34: inside a segment the value moves by one; at its end the flags choose among the equations of
EnvBoundary. -/
theorem envAdvanceRampsAndActsAtBoundary : Obligations.EnvAdvanceRampsAndActsAtBoundary := by
  refine fun P e => ⟨envAdvance_of_frozen, fun hrun hdir h => ?_, fun hrun hdir h => ?_, fun hrun hend => ?_⟩
  · rw [envAdvance_of_up hrun hdir h]
    exact ⟨by bv_omega, rfl⟩
  · rw [envAdvance_of_down hrun hdir h]
    exact ⟨by bv_omega, rfl⟩
  · rw [envAdvance_at_end hrun hend]
    refine ⟨envBoundary_once, envBoundary_hold, fun hcont hhold halt => ?_, fun hcont hhold halt => ?_,
      fun hcont hhold halt => ?_⟩
    · rw [envBoundary_holdAlternate hcont hhold halt]
      exact ⟨by bv_omega, rfl⟩
    · rw [envBoundary_alternate hcont hhold halt]
      exact ⟨e.dir.flip_ne, rfl⟩
    · rw [envBoundary_repeat hcont hhold halt]
      refine ⟨?_, rfl⟩
      obtain ⟨hdir, hvalue⟩ | ⟨hdir, hvalue⟩ := hend <;> rw [hdir, hvalue] <;> rfl

/-! ### The DAC index (R158, R159) -/

theorem gate_eq_true_iff {t : ToneChannel} {bit : Bool} :
    gate t bit = true ↔ (t.level = true ∨ t.tOff = true) ∧ (bit = true ∨ t.nOff = true) := by
  rw [gate, Bool.and_eq_true, Bool.or_eq_true, Bool.or_eq_true]

theorem gate_eq_false_iff {t : ToneChannel} {bit : Bool} :
    gate t bit = false ↔ (t.level = false ∧ t.tOff = false) ∨ (bit = false ∧ t.nOff = false) := by
  rw [gate, Bool.and_eq_false_iff, Bool.or_eq_false_iff, Bool.or_eq_false_iff]

/-- With the envelope selected an open gate lets the envelope value through. -/
theorem dacIndex_of_envelope {t : ToneChannel} {bit : Bool} {env : BitVec 5} (h : gate t bit = true)
    (heOn : t.eOn = true) : dacIndex t bit env = env.toFin := by
  rw [dacIndex, h, dacLevel, heOn]
  rfl

/-- Settles O39: the gate is the conjunction of the two terms, and lets the level through or gives 0. -/
theorem dacIndexFromGateAndLevel : Obligations.DacIndexFromGateAndLevel := by
  refine fun t bit env => ⟨fun htone hnoise => ?_, fun hclosed => ?_⟩
  · have hopen := gate_eq_true_iff.2 ⟨htone, hnoise⟩
    refine ⟨fun heOn => ?_, fun heOn => ?_⟩
    · rw [dacIndex_of_envelope hopen heOn]
      rfl
    · rw [dacIndex_of_gate_open hopen heOn]
  · rw [dacIndex_of_gate_closed (gate_eq_false_iff.2 hclosed)]
    rfl

/-! ### Interpolator (R186, R187, R46 (e)) -/

/-- Settles O47: this is the definition of the push and of the evaluation. -/
theorem interpPushAndEvalAsWritten : Obligations.InterpPushAndEvalAsWritten := by
  rintro N i x t _ _ _ _ rfl rfl rfl rfl
  exact ⟨rfl, rfl, rfl⟩

theorem interpPush_derived (N : Numerics) (i : InterpState) (x : Amp) : (interpPush N i x).Derived N := rfl

/-- A tick's push recomputes the coefficients, and an emission leaves the interpolators alone. -/
theorem Engine.InterpDerived.advanceLoop {e e' : Engine} {fuel : Nat} (h : e.InterpDerived P)
    (hloop : advanceLoop P fuel 0 e = some e') : e'.InterpDerived P :=
  advanceLoop_keeps (Q := fun _ x => x.InterpDerived P)
    (fun _ _ _ _ _ => ⟨interpPush_derived P.num _ _, interpPush_derived P.num _ _⟩) (fun _ _ _ _ hx => hx) fuel 0 e e'
    (Nat.zero_le 8) h hloop

theorem CommandEffect.interpDerived {i : Instr} {e e' : Engine} (heff : CommandEffect P i e e')
    (h : e.InterpDerived P) : e'.InterpDerived P := by
  cases heff with
  | advance _ e₁ hloop => exact h.advanceLoop (e' := e₁) hloop
  | _ => exact h

/-- In exact numerics zero samples have zero coefficients. -/
theorem resetInterp_derived_exact : (resetInterp Numerics.exact).Derived Numerics.exact := by
  simp [InterpState.Derived, resetInterp, zeroQuad, interpCoeffs, Numerics.exact]

/-- Settles O49: only ADVANCE writes an interpolator, and by pushes only. -/
theorem interpCoefficientsStayDerived : Obligations.InterpCoefficientsStayDerived :=
  ⟨fun _ _ _ hs h => (exec_effect h).interpDerived hs,
    fun _ _ => ⟨resetInterp_derived_exact, resetInterp_derived_exact⟩⟩

/-! ### DC filter (R206, R46 (g)) -/

theorem withValid_of_valid {s : State} (h : s.engine.out.valid = true) (k : Result) : withValid s k = k := if_pos h

theorem dcFiltered_dcPush (N : Numerics) (d : DcState) (x : Amp) :
    DcFiltered N d (dcPush N d x) x (dcOutput N d x) := by
  refine ⟨rfl, rfl, fun i => ?_, rfl⟩
  rw [dcPush, DcState.slide_delay]
  exact if_congr Fin.ext_iff.symm rfl rfl

/-- Settles O53: behind the validity check both sides are pushed through their filters. -/
theorem removeDcFiltersBothSides : Obligations.RemoveDcFiltersBothSides := fun _ hvalid =>
  ⟨_, withValid_of_valid hvalid _, rfl, rfl, hvalid, dcFiltered_dcPush _ _ _, dcFiltered_dcPush _ _ _, rfl, rfl⟩

/-- Replacing one entry changes the total by the difference. -/
theorem sum_toList_set {n : Nat} (v : Vector Amp n) {i : Nat} (hi : i < n) (x : Amp) :
    (v.set i x hi).toList.sum = v.toList.sum + (x - v[i]) := by
  rw [Vector.toList_set, List.sum_set']
  simp [hi]
  ring

/-- Settles O55: RESET's delay line is zeros, and an input replaces the oldest entry in the line and in the sum. -/
theorem dcRunningSumIsTheTotal : Obligations.DcRunningSumIsTheTotal := by
  refine ⟨?_, fun d x h => ?_⟩
  · rw [DcState.SumIsTotal, resetDc, Vector.toList_replicate, List.sum_replicate]
    exact (smul_zero 1024).symm
  · rw [DcState.SumIsTotal, dcPush, DcState.slide_sum]
    exact (congrArg (· + (x - d.oldest)) h).trans (sum_toList_set d.delay d.widx.isLt x).symm

/-! ### READ_SAMPLE (R216) -/

/-- Settles O56: the latch it reads is unchanged by the command, so the next READ_SAMPLE is answered alike. -/
theorem readSampleReturnsThePair : Obligations.ReadSampleReturnsThePair := fun _ hvalid =>
  ⟨_, withValid_of_valid hvalid _, rfl, rfl, rfl, withValid_of_valid hvalid _⟩

end Sys2Proof.Machine
end
